-- ==== Sys2Proof/Word.lean ====
section
/-! DEFINITION. The word types of the AM48 and the numbers of its channels, links and triggers. -/

namespace Sys2Proof

/-- A byte of a client link or of the sensor bus (11.1, 11.6). -/
abbrev Byte := BitVec 8

/-- A setting's value (R164: every value is 16 bits). -/
abbrev Word := BitVec 16

/-- A movement count, an offset, an absolute position or a tick count (R1, R157). -/
abbrev Word32 := BitVec 32

/-- The levels of a serial line at `n` sample points: bit k is the level at the k-th of them in time, 1 for high. -/
abbrev Samples (n : Nat) := BitVec n

/-- CH0 to CH7. -/
abbrev ChannelId := Fin 8

/-- L0 to L3, and with them the views V0 to V3 (0.3: one view for each link). -/
abbrev LinkId := Fin 4

/-- TR0 to TR3. -/
abbrev TriggerId := Fin 4

end Sys2Proof
end

