-- ==== Sys2Proof/Syntax.lean ====
section
/-! DEFINITION. The commands of the AM48: one constructor for each row of spec/opcode_table.json, with the operands
its rules give it, and the requests that a link queues. -/

namespace Sys2Proof

/-- The four poll rates (R38). -/
inductive Tier where
  | t0
  | t1
  | t2
  | t3
deriving DecidableEq, Repr

/-- How the attention condition drives the line (R51). -/
inductive AttentionMode where
  | off
  | level
  | pulse
deriving DecidableEq, Repr

/-- The line level that means attention (R51, R69). -/
inductive Polarity where
  | activeLow
  | activeHigh
deriving DecidableEq, Repr

/-- How a break stands to a delivery on its link (R85, R119, R148). -/
inductive BreakOrder where
  /-- No delivery falls together with the break, or the break is taken first. -/
  | alone
  /-- The delivery of the frame in transmission falls together with the break and is taken first. -/
  | afterDelivery
deriving DecidableEq, Repr

/-- A break on a link (R138, R148). -/
structure LineBreak where
  link : LinkId
  order : BreakOrder
deriving DecidableEq, Repr

/-- A request of a queued kind (R144, 11.4). P0 and P1 bytes that no rule examines are not kept. -/
inductive Request where
  /-- 10h: P0 the channel mask, P1 the options (R71). -/
  | motionRead (mask options : Byte)
  /-- 11h: P0 is n; P1 is not examined (R114). -/
  | captureRead (n : Byte)
  /-- 12h (R155). -/
  | linkStatus
  /-- 13h (R59). -/
  | viewReset
  /-- 20h (R123). -/
  | leaseAcquire
  /-- 21h (R124). -/
  | leaseRelease
  /-- 40h, with its payload as received (R130). -/
  | settingRead (payload : List Byte)
  /-- 41h, with its payload as received (R131). -/
  | settingWrite (payload : List Byte)
  /-- 42h, with its payload as received (R134). -/
  | preset (payload : List Byte)
deriving DecidableEq, Repr

/-- One command of the AM48: one row of spec/opcode_table.json. -/
inductive Instr where
  /-- RESET (R158): RESET has been low for 1 µs. -/
  | reset
  /-- RESET_RELEASE (R158): RESET goes from low to high. -/
  | resetRelease
  /-- STRAP_SAMPLING (R159): the first tick after release. Bit n of `atn` is the level of ATNn; bit n of `ld` is 1 if
  LDn is at mark. -/
  | strapSampling (atn ld : BitVec 4)
  /-- TICK (R157). Bit n of `trg` is the level of TRGn at the tick. -/
  | tick (trg : BitVec 4)
  /-- DUE_COUNTDOWN_EXPIRY (R40). -/
  | dueCountdownExpiry (c : ChannelId)
  /-- LEASE_EXPIRY (R121). -/
  | leaseExpiry
  /-- PULSE_TIMER_TICK (R68), of one view's timer. -/
  | pulseTimerTick (v : LinkId)
  /-- TRIGGER_EDGE_QUALIFIED (R92), of one trigger. -/
  | triggerEdgeQualified (t : TriggerId)
  /-- GRANT (R24). -/
  | grant
  /-- EXCHANGE_COMPLETION (R29). `sdi` are the levels sampled on SDI from where the exchange stands, eight for each
  byte clocked (R21). -/
  | exchangeCompletion (sdi : List (Samples 8))
  /-- FRAME_HEADER_RECEIVED (R139): the fourth byte of a frame arrives. -/
  | frameHeaderReceived (l : LinkId) (check : Byte)
  /-- LONG_FRAME_RECEIVED (R140): the second CRC byte of a long frame arrives. -/
  | longFrameReceived (l : LinkId) (crcLow : Byte)
  /-- FRAME_TIMEOUT (R142). -/
  | frameTimeout (l : LinkId)
  /-- FRAMING (R143). -/
  | framing (l : LinkId)
  /-- DISCARD_END (R143). -/
  | discardEnd (l : LinkId)
  /-- CONTENTION (R151). -/
  | contention (l : LinkId)
  /-- BREAK (R148, R152). -/
  | lineBreak (b : LineBreak)
  /-- TURN (R146): the client sends a TURN frame. -/
  | turn (l : LinkId) (p0 p1 : Byte)
  /-- NOOP (R144): the client sends a NOOP frame. -/
  | noop (l : LinkId) (p0 p1 : Byte)
  /-- FILL (R144): the client sends a FILL frame. -/
  | fill (l : LinkId) (payload : List Byte)
  /-- GUARD_END (R146). -/
  | guardEnd (l : LinkId)
  /-- REPLY_DELIVERY (R148). -/
  | replyDelivery (l : LinkId)
  /-- MOTION_READ (R72). -/
  | motionRead (l : LinkId) (mask options : Byte)
  /-- CAPTURE_READ (R115). -/
  | captureRead (l : LinkId) (n : Byte)
  /-- LINK_STATUS (R155). -/
  | linkStatus (l : LinkId)
  /-- VIEW_RESET (R59). -/
  | viewReset (l : LinkId)
  /-- LEASE_ACQUIRE (R123). -/
  | leaseAcquire (l : LinkId)
  /-- LEASE_RELEASE (R124). -/
  | leaseRelease (l : LinkId)
  /-- SETTING_READ (R130). -/
  | settingRead (l : LinkId) (payload : List Byte)
  /-- SETTING_WRITE (R131). -/
  | settingWrite (l : LinkId) (payload : List Byte)
  /-- PRESET (R134). -/
  | preset (l : LinkId) (payload : List Byte)
  /-- CHANNEL_ENABLE (R4). -/
  | channelEnable (l : LinkId) (c : ChannelId)
  /-- CHANNEL_DISABLE (R5). -/
  | channelDisable (l : LinkId) (c : ChannelId)
  /-- FORCED_TIER_SET (R47). -/
  | forcedTierSet (l : LinkId) (c : ChannelId) (tier : Tier)
  /-- FORCED_TIER_RELEASE (R48). -/
  | forcedTierRelease (l : LinkId) (c : ChannelId)
  /-- TRIGGER_ENABLE (R90). -/
  | triggerEnable (l : LinkId) (t : TriggerId)
  /-- TRIGGER_DISABLE (R90). -/
  | triggerDisable (l : LinkId) (t : TriggerId)
  /-- SUBSCRIPTION_CHANGE (R57): to `mask`. -/
  | subscriptionChange (l : LinkId) (mask : Byte)
  /-- RING_PLACEMENT (R110): the base and length that the write leaves. -/
  | ringPlacement (l : LinkId) (base length : Nat)
  /-- ATTENTION_SETTINGS_WRITE (R69): the mode, polarity and sources that the write leaves. -/
  | attentionSettingsWrite (l : LinkId) (mode : AttentionMode) (polarity : Polarity) (sources : BitVec 4)
  /-- RECEIVED_BYTE (R137, R139): one character time has passed on LD`l`. `line` are the levels at the middles of its
  ten bits: the start bit, the eight data bits and the stop bit. -/
  | receivedByte (l : LinkId) (line : Samples 10)
  /-- RETURN_TO_MARK (R152). -/
  | returnToMark (l : LinkId)
deriving DecidableEq, Repr

end Sys2Proof
end

