-- ==== Sys2Proof/Decode.lean ====
section
/-! DEFINITION. The commands that a table word spells. No row of spec/opcode_table.json gives bits (every row's
`fields` list is empty and none has fixed bits), so no word spells a command. -/

namespace Sys2Proof

/-- The command that the low `nbits` bits of `w` spell by the bits of spec/opcode_table.json: none, for every word,
because no row of the table gives bits. The wire's own frames are decoded by the receiver, in
Sys2Proof/Machine/Links.lean. -/
def decodeTableWord (_nbits _w : Nat) : Option Instr := none

end Sys2Proof
end

