-- ==== Sys2Proof/Config.lean ====
section
/-! DEFINITION. What revision 0003h of the AM48 fixes: identity values, limits and sensor bus bytes.
The spec leaves no value open, so there is no free value here. -/

namespace Sys2Proof.Config

/-- 0.9, R164: the part code. -/
def partCode : Word := 0x0A48

/-- 0.9, R164: the revision. -/
def revision : Word := 0x0003

/-- 0.9, R164: the inverted revision. -/
def invertedRevision : Word := 0xFFFC

/-- R52, R54: a pending value is held within plus and minus this. -/
def pendingLimit : Int := 8388607

/-- R52: gap and spill counts saturate here. -/
def accountCountMax : Nat := 15

/-- R106: a dropped count saturates here. -/
def droppedMax : Nat := 255

/-- R38: the idle count saturates here. -/
def idleCountMax : Nat := 255

/-- R9, R12: this many consecutive faults make a channel FAULTED. -/
def faultLimit : Nat := 3

/-- R154: the three frame counters saturate here. -/
def frameCounterMax : Nat := 65535

/-- R154: the breaks counter saturates here. -/
def breaksMax : Nat := 255

/-- R145: the request queue holds at most this many requests. -/
def queueMax : Nat := 4

/-- R23, R25: the hunt ends after this many fillers without a sync byte. -/
def fillerMax : Nat := 8

/-- R32, R34: the priority-streak limit. -/
def streakMax : Nat := 4

/-- R89: the run length holds here. -/
def runMax : Nat := 8

/-- R120: ticks per unit of the lease timeout. -/
def leaseTicksPerUnit : Nat := 100

/-- R39: ticks per millisecond of the T1 to T3 periods. -/
def ticksPerMs : Nat := 10

/-- R106: slots in one unit. -/
def slotsPerUnit : Nat := 8

/-- R106: units of the capture memory. -/
def units : Nat := 16

/-- 11.6: the identify command. -/
def identifyCommand : Byte := 0x3C

/-- 11.6: the motion command. -/
def motionCommand : Byte := 0xC5

/-- 11.6: the sync byte. -/
def syncByte : Byte := 0x96

end Sys2Proof.Config
end

