-- ==== Sys2Proof/Machine/State.lean ====
section
/-! DEFINITION. The state of the AM48: every field of every block, as plain data, and the values it has while RESET
is low. -/

namespace Sys2Proof.Machine

/-! ## The whole part -/

/-- Where the part stands in start-up (R158 to R160). -/
inductive Phase where
  /-- RESET is low and has taken effect. -/
  | inReset
  /-- RESET is high, the time base runs, and the first tick has not come. -/
  | released
  /-- Strap sampling has happened. -/
  | running
deriving DecidableEq, Repr

/-- The sampled strap values (R159). -/
structure Straps where
  rate : BitVec 2
  twoLinks : Bool
  autostart : Bool
deriving DecidableEq, Repr

/-- A level on a line. -/
inductive Level where
  | low
  | high
deriving DecidableEq, Repr

/-- A countdown of R40 or R121. -/
inductive Countdown where
  | stopped
  /-- Ticks remaining. -/
  | running (remaining : Nat)
  /-- The tick that takes the countdown from 1 to 0 has come, and its expiry, an event of its own block at that tick
  (R157), has not been taken yet. The model's own value (log 3). -/
  | expiring
deriving DecidableEq, Repr

/-! ## Channel unit -/

/-- The four states of a channel (R1, R2). -/
inductive ChannelState where
  | off
  | identify
  | active
  | faulted
deriving DecidableEq, Repr

/-- The cause of a failed exchange (R1, R13). -/
inductive FaultCause where
  | none
  | noResponse
  | idCheck
  | idMismatch
  | blockCheck
  | sensorFault
deriving DecidableEq, Repr

/-- A channel record (R1). -/
structure Channel where
  state : ChannelState
  movementAlong : Word32
  movementAcross : Word32
  offsetAlong : Word32
  offsetAcross : Word32
  faults : Nat
  lastCause : FaultCause
deriving DecidableEq, Repr

/-- R1: the values after reset. -/
def Channel.reset : Channel :=
  { state := .off, movementAlong := 0, movementAcross := 0, offsetAlong := 0, offsetAcross := 0, faults := 0,
    lastCause := .none }

/-! ## Poll scheduler -/

/-- A channel's record at the poll scheduler (R38). -/
structure Poll where
  tier : Tier
  idleCount : Nat
  countdown : Countdown
  due : Bool
  priority : Bool
deriving DecidableEq, Repr

/-- R38: the values after reset. -/
def Poll.reset : Poll := { tier := .t0, idleCount := 0, countdown := .stopped, due := false, priority := false }

/-! ## Shared settings -/

/-- The writable settings of one channel (R1, R39). Periods are in the units of R39. -/
structure ChannelSettings where
  enable : Bool
  expectedId : Byte
  t0Period : Nat
  t1Period : Nat
  t2Period : Nat
  t3Period : Nat
  d0 : Nat
  d1 : Nat
  d2 : Nat
  /-- NONE or a tier. -/
  forcedTier : Option Tier
deriving DecidableEq, Repr

/-- R1, R39: the reset values. -/
def ChannelSettings.reset : ChannelSettings :=
  { enable := false, expectedId := 0, t0Period := 10, t1Period := 10, t2Period := 50, t3Period := 200, d0 := 64,
    d1 := 32, d2 := 16, forcedTier := none }

/-- Which confirmed changes are qualified edges (R87). -/
inductive EdgeSetting where
  | rising
  | falling
  | both
deriving DecidableEq, Repr

/-- How a capture takes its positions (R87). -/
inductive CaptureMode where
  | instant
  | refresh
deriving DecidableEq, Repr

/-- The settings of one trigger (R87). -/
structure TriggerSettings where
  enable : Bool
  edge : EdgeSetting
  filter : Nat
  mode : CaptureMode
  mask : Byte
deriving DecidableEq, Repr

/-- R87: the reset values. -/
def TriggerSettings.reset : TriggerSettings :=
  { enable := false, edge := .rising, filter := 2, mode := .instant, mask := 0 }

/-- The shared settings (R128). -/
structure Settings where
  channels : Vector ChannelSettings 8
  triggers : Vector TriggerSettings 4
  /-- In units of 10 ms (R120). -/
  leaseTimeout : Nat
deriving DecidableEq, Repr

/-- R1, R39, R87, R120: the reset values. -/
def Settings.reset : Settings :=
  { channels := Vector.replicate 8 ChannelSettings.reset, triggers := Vector.replicate 4 TriggerSettings.reset,
    leaseTimeout := 50 }

/-! ## Sensor bus controller -/

/-- The kind of an exchange (R23). -/
inductive ExchangeKind where
  | identify
  | motion
deriving DecidableEq, Repr

/-- The bus states other than IDLE (R23). -/
inductive ExchangeStage where
  | command
  | hunt
  | block
deriving DecidableEq, Repr

/-- The exchange in flight (R23). -/
structure Exchange where
  channel : ChannelId
  kind : ExchangeKind
  discard : Bool
  stage : ExchangeStage
  fillers : Nat
  block : List Byte
deriving DecidableEq, Repr

/-- The sensor bus controller and its arbiter (R23, R32). IDLE is the absence of an exchange record. -/
structure Bus where
  exchange : Option Exchange
  pointer : ChannelId
  streak : Nat
deriving DecidableEq, Repr

/-- R23, R32: the values after reset. -/
def Bus.reset : Bus := { exchange := none, pointer := 7, streak := 0 }

/-! ## View store -/

/-- Bits per delta of a motion report (R51). -/
inductive ReportWidth where
  | w8
  | w12
  | w16
deriving DecidableEq, Repr

/-- The own-view settings of one view (R51, R106, R128). -/
structure ViewSettings where
  mask : Byte
  width : ReportWidth
  includeAbsolute : Bool
  maxReply : Nat
  triggerSelection : BitVec 4
  attentionMode : AttentionMode
  polarity : Polarity
  /-- Bit 0 MOTION, 1 FLAGS, 2 CAPTURE, 3 LEASE (R164). -/
  sources : BitVec 4
  ringBase : Nat
  ringLength : Nat
deriving DecidableEq, Repr

/-- R51, R106: the values while RESET is low. -/
def ViewSettings.reset : ViewSettings :=
  { mask := 0, width := .w16, includeAbsolute := false, maxReply := 128, triggerSelection := 0, attentionMode := .off,
    polarity := .activeLow, sources := 1, ringBase := 0, ringLength := 0 }

/-- A channel account (R52). -/
structure Account where
  along : Int
  across : Int
  gap : Nat
  spill : Nat
  minQuality : Byte
deriving DecidableEq, Repr

/-- R52: the values when created. -/
def Account.created : Account := { along := 0, across := 0, gap := 0, spill := 0, minQuality := 255 }

/-- One line of a report-in-flight record (R56). -/
structure ReportLine where
  channel : ChannelId
  along : Int
  across : Int
  gap : Nat
  spill : Nat
  afterMin : Byte
deriving DecidableEq, Repr

/-- A view record (R51). The pulse timer stands with the attention output. -/
structure View where
  settings : ViewSettings
  /-- One account for each channel of the mask (R52). -/
  accounts : Vector (Option Account) 8
  /-- The report-in-flight record (R56). -/
  report : Option (List ReportLine)
  leaseLost : Bool
  lostAgain : Bool
deriving DecidableEq, Repr

/-- R51: the values while RESET is low. -/
def View.reset : View :=
  { settings := ViewSettings.reset, accounts := Vector.replicate 8 none, report := none, leaseLost := false,
    lostAgain := false }

/-! ## Attention outputs -/

/-- The pulse timer (R68). -/
inductive PulseTimer where
  | quiet
  | owed
  | pulsing
  | pulsingOwed
deriving DecidableEq, Repr

/-- An ATN line: a strap input, or driven at a level (R70). -/
inductive AttentionLine where
  | input
  | output (level : Level)
deriving DecidableEq, Repr

/-- An attention output (R66 to R70). -/
structure Attention where
  /-- The condition as last evaluated; R68 speaks of its changes. -/
  condition : Bool
  timer : PulseTimer
  /-- A tick has come that the timer has not taken yet (log 3). A change of attention mode drops it (log 34). -/
  tickOwed : Bool
  line : AttentionLine
deriving DecidableEq, Repr

/-- R51, R70: the values while RESET is low. -/
def Attention.reset : Attention := { condition := false, timer := .quiet, tickOwed := false, line := .input }

/-! ## Trigger unit -/

/-- The watch stage of a trigger (R89). -/
inductive WatchStage where
  | off
  | starting
  | watching
deriving DecidableEq, Repr

/-- The direction of a qualified edge (R92). -/
inductive Edge where
  | rising
  | falling
deriving DecidableEq, Repr

/-- The status of a filled entry (R93). -/
inductive EntryStatus where
  | current
  | fresh
  | stale
deriving DecidableEq, Repr

/-- The stage of an entry of an open capture (R95). -/
inductive EntryStage where
  | awaitingGrant
  | awaitingResult
  | filled (status : EntryStatus) (along across : Word32)
deriving DecidableEq, Repr

/-- An entry of an open capture (R95). -/
structure Entry where
  channel : ChannelId
  stage : EntryStage
deriving DecidableEq, Repr

/-- The capture in flight of a trigger (R95). Its copied mask is the channels of its entries. -/
structure Capture where
  edge : Edge
  overlap : Bool
  timestamp : Word32
  entries : List Entry
deriving DecidableEq, Repr

/-- An entry of a finished record (R93). -/
structure RecordEntry where
  channel : ChannelId
  status : EntryStatus
  along : Word32
  across : Word32
deriving DecidableEq, Repr

/-- A capture record (R93). -/
structure CaptureRecord where
  trigger : TriggerId
  edge : Edge
  overlap : Bool
  timestamp : Word32
  entries : List RecordEntry
deriving DecidableEq, Repr

/-- The working state of a trigger record (R89). -/
structure Trigger where
  watch : WatchStage
  stable : Level
  run : Nat
  /-- A sample has met the filter and the confirmation, an event of its own at that tick, has not been taken yet
  (log 3). A disable in between drops it (log 33). -/
  confirmOwed : Bool
  capture : Option Capture
deriving DecidableEq, Repr

/-- R89: the values while RESET is low. -/
def Trigger.reset : Trigger := { watch := .off, stable := .low, run := 0, confirmOwed := false, capture := none }

/-! ## Capture memory -/

/-- What a CAPTURE REPORT now being sent has reported (R106). -/
structure CaptureReported where
  records : Nat
  dropped : Nat
deriving DecidableEq, Repr

/-- The working state of one view's ring (R106). Base and length are settings of the view. -/
structure Ring where
  head : Nat
  count : Nat
  dropped : Nat
  report : Option CaptureReported
deriving DecidableEq, Repr

/-- R106: the values while RESET is low. -/
def Ring.reset : Ring := { head := 0, count := 0, dropped := 0, report := none }

/-! ## Lease unit -/

/-- The lease unit (R120). The holder `none` is FREE. -/
structure Lease where
  holder : Option LinkId
  countdown : Countdown
deriving DecidableEq, Repr

/-- R120: the values while RESET is low. -/
def Lease.reset : Lease := { holder := none, countdown := .stopped }

/-! ## Link controllers -/

/-- The party whose turn it is to send (R136). -/
inductive Owner where
  | client
  | am48
deriving DecidableEq, Repr

/-- The receiver, with the frame in progress (R136, R139). -/
inductive Receiver where
  | idle
  /-- The header bytes so far, the kind first. -/
  | header (got : List Byte)
  /-- The kind, the length, the payload bytes so far and the skip mark. -/
  | payload (kind : Byte) (length : Nat) (got : List Byte) (skip : Bool)
  /-- The kind, the whole payload, the first CRC byte if it has come, and the skip mark. -/
  | footer (kind : Byte) (payload : List Byte) (first : Option Byte) (skip : Bool)
  | discard
  /-- The wait for the line to return to mark, after a break or after space at strap sampling (R152, R160).
  `breakTaken` says whether this stretch of space has already given its break (R138). The model's own value (log 15). -/
  | awaitMark (breakTaken : Bool)
deriving DecidableEq, Repr

/-- Which frame the AM48 is sending (11.5). -/
inductive ReplyKind where
  | turn
  | result
  | errorReport
  | linkStatusData
  | motionReport
  | captureReport
  | settingData
deriving DecidableEq, Repr

/-- The frame in transmission: its bytes as composed, and those still to send (R136, R148). -/
structure TxFrame where
  kind : ReplyKind
  bytes : List Byte
  left : List Byte
deriving DecidableEq, Repr

/-- The transmitter (R136). -/
inductive Transmitter where
  | idle
  | guard
  | sending (frame : TxFrame)
deriving DecidableEq, Repr

/-- What a LINK STATUS DATA now being sent has reported (R136, R155). -/
structure StatusReported where
  accepted : Nat
  corrected : Nat
  discarded : Nat
  breaks : Nat
  notice : Bool
deriving DecidableEq, Repr

/-- A link controller's record (R136). -/
structure Link where
  owner : Owner
  receiver : Receiver
  queue : List Request
  /-- The live error summary: bit n is the condition with bit number n (R153). -/
  summary : BitVec 11
  accepted : Nat
  corrected : Nat
  discarded : Nat
  breaks : Nat
  tx : Transmitter
  status : Option StatusReported
deriving DecidableEq, Repr

/-- R136: the values while RESET is low. -/
def Link.reset : Link :=
  { owner := .client, receiver := .idle, queue := [], summary := 0, accepted := 0, corrected := 0, discarded := 0,
    breaks := 0, tx := .idle, status := none }

/-! ## The machine -/

/-- The state of the AM48 and the commands that wait for it. -/
structure State where
  phase : Phase
  tickCount : Word32
  straps : Straps
  settings : Settings
  channels : Vector Channel 8
  polls : Vector Poll 8
  bus : Bus
  views : Vector View 4
  attention : Vector Attention 4
  triggers : Vector Trigger 4
  /-- The 128 slots of the capture memory (R106). -/
  slots : Vector (Option CaptureRecord) 128
  rings : Vector Ring 4
  lease : Lease
  links : Vector Link 4
  /-- The commands that wait, the first to be taken at the front. -/
  pending : List Instr
deriving DecidableEq, Repr

/-- The AM48 while RESET is low (R158): every block at the values its chapter gives, with no command waiting. The
straps before they are sampled are the model's choice (log 13). -/
def State.reset : State :=
  { phase := .inReset
    tickCount := 0
    straps := { rate := 0, twoLinks := false, autostart := false }
    settings := Settings.reset
    channels := Vector.replicate 8 Channel.reset
    polls := Vector.replicate 8 Poll.reset
    bus := Bus.reset
    views := Vector.replicate 4 View.reset
    attention := Vector.replicate 4 Attention.reset
    triggers := Vector.replicate 4 Trigger.reset
    slots := Vector.replicate 128 none
    rings := Vector.replicate 4 Ring.reset
    lease := Lease.reset
    links := Vector.replicate 4 Link.reset
    pending := [] }

/-! ## How a step can stop -/

/-- The faults of the machine: none. No rule of the spec lets an event stop the part, so nobody raises one. This is
safe: no behaviour is cut off. -/
inductive Fault where
deriving DecidableEq, Repr

/-- The reasons to refuse a command. -/
inductive Refusal where
  /-- The command has no meaning in the model yet. Raised by an arm of `exec` alone, and by none at present. Safe: the
  model stops where the part goes on. -/
  | notModelled (mnemonic : String)
deriving DecidableEq, Repr

end Sys2Proof.Machine
end

