-- ==== Sys2Proof/Machine/Ops.lean ====
section
/-! DEFINITION. Named operations over the state: one accessor per register file, byte order, saturating counts, and
the conditions under which the part works at all. -/

namespace Sys2Proof.Machine

/-! ## Files of registers -/

/-- `v` with place `i` holding `x`. -/
def put {α : Type} {n : Nat} (v : Vector α n) (i : Fin n) (x : α) : Vector α n := v.set i.1 x i.2

/-- `v` with place `i` changed by `f`. -/
def upd {α : Type} {n : Nat} (v : Vector α n) (i : Fin n) (f : α → α) : Vector α n := put v i (f v[i])

/-- The four values of `f`, in order. -/
def tab4 {α : Type} (f : Fin 4 → α) : Vector α 4 := #v[f 0, f 1, f 2, f 3]

/-- The eight values of `f`, in order. -/
def tab8 {α : Type} (f : Fin 8 → α) : Vector α 8 := #v[f 0, f 1, f 2, f 3, f 4, f 5, f 6, f 7]

/-- CH0 to CH7 in ascending order. -/
def allChannels : List ChannelId := [0, 1, 2, 3, 4, 5, 6, 7]

/-- L0 to L3, or V0 to V3, in ascending order. -/
def allLinks : List LinkId := [0, 1, 2, 3]

/-- TR0 to TR3 in ascending order. -/
def allTriggers : List TriggerId := [0, 1, 2, 3]

def State.modChannel (s : State) (c : ChannelId) (f : Channel → Channel) : State :=
  { s with channels := upd s.channels c f }

def State.modPoll (s : State) (c : ChannelId) (f : Poll → Poll) : State := { s with polls := upd s.polls c f }

def State.modView (s : State) (v : LinkId) (f : View → View) : State := { s with views := upd s.views v f }

def State.modAttention (s : State) (v : LinkId) (f : Attention → Attention) : State :=
  { s with attention := upd s.attention v f }

def State.modTrigger (s : State) (t : TriggerId) (f : Trigger → Trigger) : State :=
  { s with triggers := upd s.triggers t f }

def State.modRing (s : State) (v : LinkId) (f : Ring → Ring) : State := { s with rings := upd s.rings v f }

def State.modLink (s : State) (l : LinkId) (f : Link → Link) : State := { s with links := upd s.links l f }

/-! ## When the part works -/

/-- What a meaning answers. -/
abbrev Result := Host.Outcome State Fault Refusal

/-- R156: L2 and L3 do not operate when the LINKS strap selects two links. -/
def linkEnabled (s : State) (l : LinkId) : Bool := !(s.straps.twoLinks && decide (2 ≤ l.val))

/-- R136, R156, R160: a link works from strap sampling on, unless the LINKS strap disables it. -/
def operating (s : State) (l : LinkId) : Bool := decide (s.phase = .running) && linkEnabled s l

/-- An event of the part, which takes place only after strap sampling (R158, R160). -/
def onRunning (f : State → State) (s : State) : Result := .next (if s.phase = .running then f s else s)

/-- An event of link `l`, which takes place only while that link works (R136, R156). -/
def onLink (l : LinkId) (f : State → State) (s : State) : Result := .next (if operating s l then f s else s)

/-! ## Bits on a line -/

/-- R21: a byte of the sensor bus as its eight levels in time, and eight levels as their byte: the first is the most
significant bit. -/
def msbFirst (x : BitVec 8) : BitVec 8 := x.reverse

/-- R137: the levels of ten bit times of a released line. -/
def allMark : Samples 10 := 0x3FF

/-- R137: a byte as one character: a start bit at space, the data bits with the least significant first, and a stop bit
at mark. -/
def character (b : Byte) : Samples 10 := 1#1 ++ b ++ 0#1

/-- R137: a space that lasts to the middle of its bit is a start bit. -/
def hasStartBit (line : Samples 10) : Bool := !line.getLsbD 0

/-- R137: the stop bit is sampled at mark. -/
def hasStopBit (line : Samples 10) : Bool := line.getLsbD 9

/-- R137: the byte of a character. -/
def dataOf (line : Samples 10) : Byte := line.extractLsb' 1 8

/-! ## Counts and byte order -/

/-- A count that saturates at `max` rises by 1 (0.5, "Saturating counts"). -/
def satInc (max n : Nat) : Nat := if n < max then n + 1 else n

/-- The byte of a number 0 to 255. -/
def byteOf (n : Nat) : Byte := BitVec.ofNat 8 n

/-- A Boolean as a number. -/
def bitOf (b : Bool) : Nat := if b then 1 else 0

/-- 16 bits, most significant byte first (0.5). -/
def be16 (w : Word) : List Byte := [w.extractLsb' 8 8, w.extractLsb' 0 8]

/-- 32 bits, most significant byte first (0.5). -/
def be32 (w : Word32) : List Byte :=
  [w.extractLsb' 24 8, w.extractLsb' 16 8, w.extractLsb' 8 8, w.extractLsb' 0 8]

/-- Two bytes as 16 bits, the first the more significant (0.5). -/
def word (hi lo : Byte) : Word := hi ++ lo

/-- Four bytes as 32 bits, the first the most significant (0.5). -/
def word32 (a b c d : Byte) : Word32 := a ++ b ++ c ++ d

/-- The upper half of a 32-bit value (R164). -/
def highHalf (w : Word32) : Word := w.extractLsb' 16 16

/-- The lower half of a 32-bit value (R164). -/
def lowHalf (w : Word32) : Word := w.extractLsb' 0 16

/-- The other level. -/
def Level.flip : Level → Level
  | .low => .high
  | .high => .low

/-- A sampled bit as a level (R159: a high level is 1). -/
def levelOf (b : Bool) : Level := if b then .high else .low

/-! ## Positions -/

/-- R14: absolute along is movement plus offset, modulo 2^32. -/
def Channel.absoluteAlong (ch : Channel) : Word32 := ch.movementAlong + ch.offsetAlong

/-- R14: absolute across. -/
def Channel.absoluteAcross (ch : Channel) : Word32 := ch.movementAcross + ch.offsetAcross

/-! ## Countdowns -/

/-- One tick at a countdown (R40, R121). The last tick brings the expiry, an event of its own (log 3). -/
def Countdown.tick : Countdown → Countdown
  | .stopped => .stopped
  | .running n => if 2 ≤ n then .running (n - 1) else .expiring
  | .expiring => .expiring

/-- The ticks remaining as a client reads them (R127). Before its expiry is taken the countdown reads 1 (log 4). -/
def Countdown.remaining : Countdown → Nat
  | .stopped => 0
  | .running n => n
  | .expiring => 1

end Sys2Proof.Machine
end

