-- ==== Sys2Proof/Machine/Flags.lean ====
section
/-! DEFINITION. The flags that clients see: the live error summary of a link (R153) and the attention condition and
line of a view (R66 to R70). -/

namespace Sys2Proof.Machine

/-! ## The live error summary -/

/-- The eleven link conditions (R153). -/
inductive LinkCondition where
  | framing
  | frameTimeout
  | headerCorrected
  | headerUncorrectable
  | payloadCrc
  | badLength
  | unknownKind
  | wrongDirection
  | queueFull
  | contention
  | lineBreak
deriving DecidableEq, Repr

/-- The summary that holds one condition alone, at its bit number (R153). -/
def LinkCondition.bit : LinkCondition → BitVec 11
  | .framing => 0x001
  | .frameTimeout => 0x002
  | .headerCorrected => 0x004
  | .headerUncorrectable => 0x008
  | .payloadCrc => 0x010
  | .badLength => 0x020
  | .unknownKind => 0x040
  | .wrongDirection => 0x080
  | .queueFull => 0x100
  | .contention => 0x200
  | .lineBreak => 0x400

/-- R153: a condition is recorded; one already in the set stays once. -/
def Link.record (k : Link) (x : LinkCondition) : Link := { k with summary := k.summary ||| x.bit }

/-- R154: a frame is counted as accepted. -/
def Link.countAccepted (k : Link) : Link := { k with accepted := satInc Config.frameCounterMax k.accepted }

/-- R154: a corrected header is counted. -/
def Link.countCorrected (k : Link) : Link := { k with corrected := satInc Config.frameCounterMax k.corrected }

/-- R154: a frame is counted as discarded. -/
def Link.countDiscarded (k : Link) : Link := { k with discarded := satInc Config.frameCounterMax k.discarded }

/-- R154: a break is counted. -/
def Link.countBreak (k : Link) : Link := { k with breaks := satInc Config.breaksMax k.breaks }

/-! ## Subscription -/

/-- R51: whether a channel is in the view's subscription mask. -/
def View.subscribed (v : View) (c : ChannelId) : Bool := v.settings.mask.getLsbD c.val

/-- R52: the account of a subscribed channel. -/
def View.account? (v : View) (c : ChannelId) : Option Account := if v.subscribed c then v.accounts[c] else none

/-! ## The attention condition -/

/-- R66: source MOTION. -/
def motionSource (v : View) : Bool :=
  allChannels.any fun c =>
    match v.account? c with
    | some a => decide (a.along ≠ 0) || decide (a.across ≠ 0)
    | none => false

/-- R66: source FLAGS. -/
def flagsSource (channels : Vector Channel 8) (v : View) : Bool :=
  allChannels.any fun c =>
    (match v.account? c with
      | some a => decide (a.gap ≠ 0) || decide (a.spill ≠ 0)
      | none => false) ||
    (v.subscribed c && decide (channels[c].state = .faulted))

/-- R66: source CAPTURE. -/
def captureSource (r : Ring) : Bool := decide (r.count ≠ 0) || decide (r.dropped ≠ 0)

/-- R66: source LEASE. -/
def leaseSource (v : View) : Bool := v.leaseLost

/-- R66: the attention condition of a view. -/
def conditionOf (channels : Vector Channel 8) (v : View) (r : Ring) : Bool :=
  (v.settings.sources.getLsbD 0 && motionSource v) ||
  (v.settings.sources.getLsbD 1 && flagsSource channels v) ||
  (v.settings.sources.getLsbD 2 && captureSource r) ||
  (v.settings.sources.getLsbD 3 && leaseSource v)

/-- R66: the attention condition of view `v` in state `s`. -/
def attentionCondition (s : State) (v : LinkId) : Bool := conditionOf s.channels s.views[v] s.rings[v]

/-! ## The line -/

/-- R68: what a false-to-true change of the condition does to the pulse timer. -/
def PulseTimer.rise : PulseTimer → PulseTimer
  | .quiet => .owed
  | .owed => .owed
  | .pulsing => .pulsingOwed
  | .pulsingOwed => .pulsingOwed

/-- R68: what a tick does to the pulse timer. -/
def PulseTimer.tick : PulseTimer → PulseTimer
  | .quiet => .quiet
  | .owed => .pulsing
  | .pulsing => .quiet
  | .pulsingOwed => .owed

/-- R68: whether the timer holds the line active. -/
def PulseTimer.active : PulseTimer → Bool
  | .quiet => false
  | .owed => false
  | .pulsing => true
  | .pulsingOwed => true

/-- R67 to R69: whether the line is at its active level. -/
def lineActive (mode : AttentionMode) (condition : Bool) (timer : PulseTimer) : Bool :=
  match mode with
  | .off => false
  | .level => condition
  | .pulse => timer.active

/-- R69: the level that a polarity gives an active or an inactive line. -/
def polarityLevel (p : Polarity) (active : Bool) : Level :=
  match p with
  | .activeLow => if active then .low else .high
  | .activeHigh => if active then .high else .low

/-- R70: the level of view `v`'s line. A line of a disabled link is driven high. -/
def lineLevel (s : State) (v : LinkId) (condition : Bool) (timer : PulseTimer) : Level :=
  if linkEnabled s v then
    polarityLevel s.views[v].settings.polarity (lineActive s.views[v].settings.attentionMode condition timer)
  else .high

/-- R67 to R69: the pulse timer after an event that leaves the condition at `now`. -/
def timerAfter (mode : AttentionMode) (a : Attention) (now : Bool) : PulseTimer :=
  match mode with
  | .off => .quiet
  | .level => .quiet
  | .pulse => if !a.condition && now then a.timer.rise else a.timer

/-- R66 to R70: the attention output of view `v` after an event, from the inputs as that event leaves them. -/
def attendView (s : State) (v : LinkId) : Attention :=
  let a := s.attention[v]
  let now := attentionCondition s v
  let timer := timerAfter s.views[v].settings.attentionMode a now
  { a with condition := now, timer := timer, line := .output (lineLevel s v now timer) }

/-- R66: every view's attention is evaluated at the end of an event. -/
def attendAll (s : State) : State := { s with attention := tab4 (attendView s) }

end Sys2Proof.Machine
end

