-- ==== Sys2Proof/Machine/PollScheduler.lean ====
section
/-! DEFINITION. The poll scheduler (R38 to R50). -/

namespace Sys2Proof.Machine

/-- R39: a tier's period in ticks. -/
def periodTicks (cs : ChannelSettings) : Tier → Nat
  | .t0 => cs.t0Period
  | .t1 => Config.ticksPerMs * cs.t1Period
  | .t2 => Config.ticksPerMs * cs.t2Period
  | .t3 => Config.ticksPerMs * cs.t3Period

/-- R42: the downshift count of a tier; T3 has none. -/
def downshiftCount (cs : ChannelSettings) : Tier → Option Nat
  | .t0 => some cs.d0
  | .t1 => some cs.d1
  | .t2 => some cs.d2
  | .t3 => none

/-- R42: one step down; nothing lies below T3. -/
def nextTier : Tier → Tier
  | .t0 => .t1
  | .t1 => .t2
  | .t2 => .t3
  | .t3 => .t3

/-- R42: the tier and idle count after a successful motion exchange; `moved` says that a delta was nonzero. -/
def tierMove (cs : ChannelSettings) (moved : Bool) (p : Poll) : Poll :=
  if moved then
    { p with tier := if cs.forcedTier = none then .t0 else p.tier, idleCount := 0 }
  else
    let idle := satInc Config.idleCountMax p.idleCount
    match cs.forcedTier, downshiftCount cs p.tier with
    | none, some d => if d ≤ idle then { p with tier := nextTier p.tier, idleCount := 0 } else { p with idleCount := idle }
    | _, _ => { p with idleCount := idle }

/-- R43: the countdown is reloaded with a tier's period. -/
def Poll.reload (cs : ChannelSettings) (t : Tier) (p : Poll) : Poll :=
  { p with countdown := .running (periodTicks cs t) }

/-- R8: the tier that an identify success gives. -/
def identifiedTier (cs : ChannelSettings) : Tier := cs.forcedTier.getD .t0

/-- R8, R43: the scheduler at an identify success. -/
def Poll.identified (cs : ChannelSettings) (p : Poll) : Poll :=
  Poll.reload cs (identifiedTier cs) { p with tier := identifiedTier cs, idleCount := 0 }

/-- R42, R43: the scheduler at a successful motion exchange. -/
def Poll.motionDone (cs : ChannelSettings) (moved : Bool) (p : Poll) : Poll :=
  let q := tierMove cs moved p
  Poll.reload cs q.tier q

/-- R41: the scheduler at a grant. -/
def Poll.granted (p : Poll) : Poll := { p with due := false, priority := false, countdown := .stopped }

/-- R45: the scheduler at a disable. -/
def Poll.disabled (p : Poll) : Poll := { p with due := false, priority := false, countdown := .stopped }

/-- R40: the expiry of a channel's countdown. -/
def dueExpiryEvent (c : ChannelId) (s : State) : State :=
  match s.polls[c].countdown with
  | .expiring => s.modPoll c fun p => { p with due := true, countdown := .stopped }
  | .running _ => s
  | .stopped => s

/-- DUE_COUNTDOWN_EXPIRY (R40). It does not take place before the tick that brings the countdown to 0 (log 1, log 3). -/
def execDueCountdownExpiry (c : ChannelId) (s : State) : Result := onRunning (dueExpiryEvent c) s

end Sys2Proof.Machine
end

