-- ==== Sys2Proof/Machine/Codes.lean ====
section
/-! DEFINITION. The header check code (R162), the payload CRC (R163) and the frames of a client link (11.1). -/

namespace Sys2Proof.Machine

/-! ## The header check code -/

/-- 11.2: the code positions of data bits 0 to 23. -/
def codePositions : List (Nat × BitVec 5) :=
  [(0, 3), (1, 5), (2, 6), (3, 7), (4, 9), (5, 10), (6, 11), (7, 12), (8, 13), (9, 14), (10, 15), (11, 17),
   (12, 18), (13, 19), (14, 20), (15, 21), (16, 22), (17, 23), (18, 24), (19, 25), (20, 26), (21, 27), (22, 28),
   (23, 29)]

/-- 11.2: the header as one 24-bit value, the kind in its upper byte. -/
def headerBits (kind second third : Byte) : BitVec 24 := kind ++ second ++ third

/-- 11.2: check bits 0 to 4. Bit k is the exclusive-or of the data bits whose position has bit k set, so the five
together are the exclusive-or of the positions of the set data bits. -/
def checkBits (d : BitVec 24) : BitVec 5 :=
  codePositions.foldl (fun acc ip => if d.getLsbD ip.1 then acc ^^^ ip.2 else acc) 0

/-- The exclusive-or of the low `n` bits. -/
def parity {w : Nat} (x : BitVec w) : Nat → Bool
  | 0 => false
  | n + 1 => x.getLsbD n ^^ parity x n

/-- 11.2: the check byte of a header. -/
def checkByte (d : BitVec 24) : Byte :=
  let c := checkBits d
  BitVec.setWidth 8 c ||| (if parity d 24 ^^ parity c 5 then 0x20 else 0)

/-- What the receiver makes of a header (R162). -/
inductive HeaderOutcome where
  | intact
  | corrected (header : BitVec 24)
  | uncorrectable
deriving DecidableEq, Repr

/-- 11.2: the data bit at a code position. -/
def dataBitAt (p : BitVec 5) : Option Nat := (codePositions.find? fun ip => ip.2 == p).map (·.1)

/-- R162: the decision on a received header and check byte. -/
def decodeHeader (d : BitVec 24) (check : Byte) : HeaderOutcome :=
  let s := check.setWidth 5 ^^^ checkBits d
  let o := parity d 24 ^^ parity check 6
  if check.getLsbD 6 || check.getLsbD 7 then .uncorrectable
  else if s = 0 then (if o then .corrected d else .intact)
  else if !o then .uncorrectable
  else if s = 1 ∨ s = 2 ∨ s = 4 ∨ s = 8 ∨ s = 16 then .corrected d
  else
    match dataBitAt s with
    | some i => .corrected (d ^^^ (BitVec.twoPow 24 i))
    | none => .uncorrectable

/-! ## The payload CRC -/

/-- R163: one bit of the register, polynomial 1021h. -/
def crcBit (r : Word) : Word := if r.getLsbD 15 then (r <<< 1) ^^^ 0x1021 else r <<< 1

/-- R163: one byte, most significant bit first. -/
def crcByte (r : Word) (b : Byte) : Word :=
  crcBit (crcBit (crcBit (crcBit (crcBit (crcBit (crcBit (crcBit (r ^^^ (b.setWidth 16 <<< 8)))))))))

/-- R163: the CRC of a payload; the register starts at FFFFh. -/
def crc (payload : List Byte) : Word := payload.foldl crcByte 0xFFFF

/-! ## Frames -/

/-- 11.1: a short frame. -/
def shortFrame (kind p0 p1 : Byte) : List Byte := [kind, p0, p1, checkByte (headerBits kind p0 p1)]

/-- 11.1: a long frame. -/
def longFrame (kind : Byte) (payload : List Byte) : List Byte :=
  let n := BitVec.ofNat 16 payload.length
  let hi := n.extractLsb' 8 8
  let lo := n.extractLsb' 0 8
  [kind, hi, lo, checkByte (headerBits kind hi lo)] ++ payload ++ be16 (crc payload)

/-- 11.1: kinds 00h to 3Fh and 80h to BFh are short; the rest are long. -/
def isShortKind (kind : Byte) : Bool := !kind.getLsbD 6

/-- 11.1: kinds 80h to FFh travel from part to client. -/
def isPartKind (kind : Byte) : Bool := kind.getLsbD 7

/-- 11.5: the kind byte of each reply. -/
def ReplyKind.code : ReplyKind → Byte
  | .turn => 0x81
  | .result => 0x82
  | .errorReport => 0x83
  | .linkStatusData => 0xC0
  | .motionReport => 0xC1
  | .captureReport => 0xC2
  | .settingData => 0xC3

/-- R136: a frame as it is composed, with all its bytes still to send. -/
def TxFrame.composed (kind : ReplyKind) (bytes : List Byte) : TxFrame := { kind := kind, bytes := bytes, left := bytes }

/-- A short frame of the AM48 (11.5). -/
def shortReply (kind : ReplyKind) (p0 p1 : Byte) : TxFrame := .composed kind (shortFrame kind.code p0 p1)

/-- A long frame of the AM48 (11.5). -/
def longReply (kind : ReplyKind) (payload : List Byte) : TxFrame := .composed kind (longFrame kind.code payload)

end Sys2Proof.Machine
end

