-- ==== Sys2Proof/Machine/Operands.lean ====
section
/-! DEFINITION. The operand forms: the settings address map (R164), the codes of its values, request kinds (R141) and
the payloads of requests (11.4). -/

namespace Sys2Proof.Machine

/-! ## Result codes -/

/-- 0.6: the result codes. -/
inductive ResultCode where
  | ok
  | leaseHeld
  | notHolder
  | noLease
  | badAddress
  | readOnly
  | outOfRange
  | overlap
  | badRequest
deriving DecidableEq, Repr

/-- 0.6: the code of each result. -/
def ResultCode.code : ResultCode → Byte
  | .ok => 0
  | .leaseHeld => 1
  | .notHolder => 2
  | .noLease => 3
  | .badAddress => 4
  | .readOnly => 5
  | .outOfRange => 6
  | .overlap => 7
  | .badRequest => 8

/-! ## The settings address map -/

/-- The settings and values of one channel, in address order (R164). -/
inductive ChannelField where
  | enable
  | expectedId
  | t0Period
  | t1Period
  | t2Period
  | t3Period
  | d0
  | d1
  | d2
  | forcedTier
  | state
  | tier
  | faults
  | lastCause
  | alongHigh
  | alongLow
  | acrossHigh
  | acrossLow
deriving DecidableEq, Repr

/-- The settings of one trigger, in address order (R164). -/
inductive TriggerField where
  | enable
  | edge
  | filter
  | mode
  | mask
deriving DecidableEq, Repr

/-- The own-view settings, in address order (R164). -/
inductive OwnField where
  | mask
  | width
  | includeAbsolute
  | maxReply
  | triggerSelection
  | attentionMode
  | polarity
  | sources
  | ringBase
  | ringLength
deriving DecidableEq, Repr

/-- The identity and global settings, in address order (R164). -/
inductive GlobalField where
  | partCode
  | revision
  | invertedRevision
  | rate
  | links
  | autostart
  | tickHigh
  | tickLow
  | leaseHolder
  | leaseRemaining
  | leaseTimeout
deriving DecidableEq, Repr

/-- A setting that an address names (R164). -/
inductive Setting where
  | global (f : GlobalField)
  | channel (c : ChannelId) (f : ChannelField)
  | trigger (t : TriggerId) (f : TriggerField)
  | own (f : OwnField)
deriving DecidableEq, Repr

/-- The three classes of settings (R128). -/
inductive SettingClass where
  | readOnly
  | shared
  | ownView
deriving DecidableEq, Repr

/-- R164: addresses 0000h to 000Ah. -/
def globalField? : Nat → Option GlobalField
  | 0x0 => some .partCode
  | 0x1 => some .revision
  | 0x2 => some .invertedRevision
  | 0x3 => some .rate
  | 0x4 => some .links
  | 0x5 => some .autostart
  | 0x6 => some .tickHigh
  | 0x7 => some .tickLow
  | 0x8 => some .leaseHolder
  | 0x9 => some .leaseRemaining
  | 0xA => some .leaseTimeout
  | _ => none

/-- R164: offsets 00h to 11h of a channel. -/
def channelField? : Nat → Option ChannelField
  | 0x00 => some .enable
  | 0x01 => some .expectedId
  | 0x02 => some .t0Period
  | 0x03 => some .t1Period
  | 0x04 => some .t2Period
  | 0x05 => some .t3Period
  | 0x06 => some .d0
  | 0x07 => some .d1
  | 0x08 => some .d2
  | 0x09 => some .forcedTier
  | 0x0A => some .state
  | 0x0B => some .tier
  | 0x0C => some .faults
  | 0x0D => some .lastCause
  | 0x0E => some .alongHigh
  | 0x0F => some .alongLow
  | 0x10 => some .acrossHigh
  | 0x11 => some .acrossLow
  | _ => none

/-- R164: offsets 00h to 04h of a trigger. -/
def triggerField? : Nat → Option TriggerField
  | 0x0 => some .enable
  | 0x1 => some .edge
  | 0x2 => some .filter
  | 0x3 => some .mode
  | 0x4 => some .mask
  | _ => none

/-- R164: offsets 0h to 9h of the own-view region. -/
def ownField? : Nat → Option OwnField
  | 0x0 => some .mask
  | 0x1 => some .width
  | 0x2 => some .includeAbsolute
  | 0x3 => some .maxReply
  | 0x4 => some .triggerSelection
  | 0x5 => some .attentionMode
  | 0x6 => some .polarity
  | 0x7 => some .sources
  | 0x8 => some .ringBase
  | 0x9 => some .ringLength
  | _ => none

/-- R164: the setting at an address, or none where the map lists nothing. -/
def resolve (a : Nat) : Option Setting :=
  if a < 0x0100 then (globalField? a).map .global
  else if a < 0x0200 then
    (channelField? ((a - 0x0100) % 0x20)).map (.channel (Fin.ofNat 8 ((a - 0x0100) / 0x20)))
  else if a < 0x0240 then
    (triggerField? ((a - 0x0200) % 0x10)).map (.trigger (Fin.ofNat 4 ((a - 0x0200) / 0x10)))
  else if a < 0x0300 then none
  else (ownField? (a - 0x0300)).map .own

/-- R164: the class of a setting. -/
def Setting.access : Setting → SettingClass
  | .global .leaseTimeout => .shared
  | .global _ => .readOnly
  | .channel _ f =>
    match f with
    | .state | .tier | .faults | .lastCause | .alongHigh | .alongLow | .acrossHigh | .acrossLow => .readOnly
    | .enable | .expectedId | .t0Period | .t1Period | .t2Period | .t3Period | .d0 | .d1 | .d2 | .forcedTier => .shared
  | .trigger _ _ => .shared
  | .own _ => .ownView

/-- The settings at `n` consecutive addresses from `a`, or none if one of them does not exist (R130, R131). -/
def resolveRun (a : Nat) : Nat → Option (List Setting)
  | 0 => some []
  | n + 1 =>
    match resolve a, resolveRun (a + 1) n with
    | some x, some xs => some (x :: xs)
    | _, _ => none

/-! ## Codes of values -/

/-- R164: state codes. -/
def ChannelState.code : ChannelState → Nat
  | .off => 0
  | .identify => 1
  | .active => 2
  | .faulted => 3

/-- R164: tier codes. -/
def tierCode : Tier → Nat
  | .t0 => 0
  | .t1 => 1
  | .t2 => 2
  | .t3 => 3

/-- R164: fault cause codes. -/
def FaultCause.code : FaultCause → Nat
  | .none => 0
  | .noResponse => 1
  | .idCheck => 2
  | .idMismatch => 3
  | .blockCheck => 4
  | .sensorFault => 5

/-- R164: forced tier codes. -/
def forcedTierCode : Option Tier → Nat
  | none => 0
  | some .t0 => 1
  | some .t1 => 2
  | some .t2 => 3
  | some .t3 => 4

/-- R164: the forced tier that a code names. -/
def forcedTierOf? : Nat → Option (Option Tier)
  | 0 => some none
  | 1 => some (some .t0)
  | 2 => some (some .t1)
  | 3 => some (some .t2)
  | 4 => some (some .t3)
  | _ => none

/-- R164: edge setting codes. -/
def EdgeSetting.code : EdgeSetting → Nat
  | .rising => 0
  | .falling => 1
  | .both => 2

/-- R164: the edge setting that a code names. -/
def edgeSettingOf? : Nat → Option EdgeSetting
  | 0 => some .rising
  | 1 => some .falling
  | 2 => some .both
  | _ => none

/-- R164: trigger mode codes. -/
def CaptureMode.code : CaptureMode → Nat
  | .instant => 0
  | .refresh => 1

/-- R164: the trigger mode that a code names. -/
def captureModeOf? : Nat → Option CaptureMode
  | 0 => some .instant
  | 1 => some .refresh
  | _ => none

/-- R164: a report width as written. -/
def ReportWidth.code : ReportWidth → Nat
  | .w8 => 8
  | .w12 => 12
  | .w16 => 16

/-- R62, R164: the report width that a value names. -/
def reportWidthOf? : Nat → Option ReportWidth
  | 8 => some .w8
  | 12 => some .w12
  | 16 => some .w16
  | _ => none

/-- R164: attention mode codes. -/
def attentionModeCode : AttentionMode → Nat
  | .off => 0
  | .level => 1
  | .pulse => 2

/-- R164: the attention mode that a code names. -/
def attentionModeOf? : Nat → Option AttentionMode
  | 0 => some .off
  | 1 => some .level
  | 2 => some .pulse
  | _ => none

/-- R164: polarity codes. -/
def polarityCode : Polarity → Nat
  | .activeLow => 0
  | .activeHigh => 1

/-- R164: the polarity that a code names. -/
def polarityOf? : Nat → Option Polarity
  | 0 => some .activeLow
  | 1 => some .activeHigh
  | _ => none

/-- The Boolean that 0 or 1 names. -/
def flagOf? : Nat → Option Bool
  | 0 => some false
  | 1 => some true
  | _ => none

/-- A number within a range (R132). -/
def inRange? (lo hi n : Nat) : Option Nat := if lo ≤ n ∧ n ≤ hi then some n else none

/-- How many channels a mask names (R87). -/
def maskCount (m : Byte) : Nat := (allChannels.filter fun c => m.getLsbD c.val).length

/-! ## Request kinds -/

/-- R141, R144: the queued request that a short frame of this kind asks for. -/
def shortRequest? (kind p0 p1 : Byte) : Option Request :=
  if kind = 0x10 then some (.motionRead p0 p1)
  else if kind = 0x11 then some (.captureRead p0)
  else if kind = 0x12 then some .linkStatus
  else if kind = 0x13 then some .viewReset
  else if kind = 0x20 then some .leaseAcquire
  else if kind = 0x21 then some .leaseRelease
  else none

/-- R141, R144: the queued request that a long frame of this kind asks for. -/
def longRequest? (kind : Byte) (payload : List Byte) : Option Request :=
  if kind = 0x40 then some (.settingRead payload)
  else if kind = 0x41 then some (.settingWrite payload)
  else if kind = 0x42 then some (.preset payload)
  else none

/-- R144: the kind of TURN. -/
def turnKind : Byte := 0x01

/-- R144: the kind of NOOP. -/
def noopKind : Byte := 0x02

/-- R144: the kind of FILL. -/
def fillKind : Byte := 0x43

/-- R141: the long request kinds. -/
def isLongRequestKind (kind : Byte) : Bool :=
  kind == 0x40 || kind == 0x41 || kind == 0x42 || kind == fillKind

/-- The kind byte of a queued request (11.4), as its RESULT names it (R147). -/
def requestKind : Request → Byte
  | .motionRead _ _ => 0x10
  | .captureRead _ => 0x11
  | .linkStatus => 0x12
  | .viewReset => 0x13
  | .leaseAcquire => 0x20
  | .leaseRelease => 0x21
  | .settingRead _ => 0x40
  | .settingWrite _ => 0x41
  | .preset _ => 0x42

/-! ## Payloads -/

/-- R130: the address and count of a SETTING READ. -/
def parseRead : List Byte → Option (Nat × Nat)
  | [a, b, n] => some ((word a b).toNat, n.toNat)
  | _ => none

/-- Bytes in pairs, each most significant first; none for an odd number. -/
def words : List Byte → Option (List Word)
  | [] => some []
  | [_] => none
  | a :: b :: rest => (words rest).map (word a b :: ·)

/-- R131: the address and values of a SETTING WRITE whose length is even and lies between 4 and 66. -/
def parseWrite (payload : List Byte) : Option (Nat × List Word) :=
  match words payload with
  | some (a :: v :: vs) => if (v :: vs).length ≤ 32 then some (a.toNat, v :: vs) else none
  | _ => none

/-- A PRESET's operands (R134). -/
structure PresetOperands where
  channel : Byte
  axes : Byte
  along : Word32
  across : Word32
deriving DecidableEq, Repr

/-- R134: the operands of a ten-byte PRESET payload. -/
def parsePreset : List Byte → Option PresetOperands
  | [c, x, a3, a2, a1, a0, b3, b2, b1, b0] =>
    some { channel := c, axes := x, along := word32 a3 a2 a1 a0, across := word32 b3 b2 b1 b0 }
  | _ => none

/-- A channel number 0 to 7 (R134). -/
def channelOf? (b : Byte) : Option ChannelId := if h : b.toNat < 8 then some ⟨b.toNat, h⟩ else none

end Sys2Proof.Machine
end

