-- ==== Sys2Proof/Machine/LeaseUnit.lean ====
section
/-! DEFINITION. The lease unit (R120 to R127), and how a reply is put on the line. -/

namespace Sys2Proof.Machine

/-! ## Replies -/

/-- R147, R148: a composed frame goes to the transmitter, which begins to send it. -/
def send (l : LinkId) (f : TxFrame) (s : State) : State := s.modLink l fun k => { k with tx := .sending f }

/-- R147: a RESULT carries the request's kind in P0 and the result code in P1. -/
def sendResult (l : LinkId) (r : Request) (code : ResultCode) (s : State) : State :=
  send l (shortReply .result (requestKind r) code.code) s

/-! ## The lease -/

/-- R122: the countdown after a reload. -/
def leaseReload (s : State) : Countdown := .running (s.settings.leaseTimeout * Config.leaseTicksPerUnit)

/-- R122: the lease is renewed if link `l` holds it. -/
def renewLease (l : LinkId) (s : State) : State :=
  if s.lease.holder = some l then { s with lease := { s.lease with countdown := leaseReload s } } else s

/-- R61: whether a LINK STATUS DATA that reported the notice set is being sent on link `l`. -/
def noticeBeingTold (s : State) (l : LinkId) : Bool :=
  match s.links[l].status with
  | some st => st.notice
  | none => false

/-- R61, R121, R125: the lease leaves its holder without a release. -/
def loseLease (s : State) : State :=
  match s.lease.holder with
  | none => s
  | some l =>
    ({ s with lease := { holder := none, countdown := .stopped } } : State).modView l fun v =>
      { v with leaseLost := true, lostAgain := v.lostAgain || noticeBeingTold s l }

/-- R121: the expiry, at the tick on which the countdown reaches 0. -/
def leaseExpiryEvent (s : State) : State :=
  match s.lease.countdown with
  | .expiring => attendAll (loseLease s)
  | .running _ => s
  | .stopped => s

/-- LEASE_EXPIRY (R121). It does not take place before the tick that brings the countdown to 0 (log 1, log 3). -/
def execLeaseExpiry (s : State) : Result := onRunning leaseExpiryEvent s

/-- R123: LEASE ACQUIRE, up to the reload of R122. -/
def runLeaseAcquire (l : LinkId) (s : State) : State :=
  match s.lease.holder with
  | none =>
    sendResult l .leaseAcquire .ok { s with lease := { holder := some l, countdown := leaseReload s } }
  | some h => if h = l then sendResult l .leaseAcquire .ok s else sendResult l .leaseAcquire .leaseHeld s

/-- R124: LEASE RELEASE. -/
def runLeaseRelease (l : LinkId) (s : State) : State :=
  if s.lease.holder = some l then
    sendResult l .leaseRelease .ok { s with lease := { holder := none, countdown := .stopped } }
  else sendResult l .leaseRelease .notHolder s

/-- R127, R155: the holder as LINK STATUS DATA carries it, FFh for FREE. -/
def holderCode : Option LinkId → Nat
  | none => 0xFF
  | some l => l.val

end Sys2Proof.Machine
end

