-- ==== Sys2Proof/Machine/CaptureMemory.lean ====
section
/-! DEFINITION. The capture memory: slots, rings, placement, appending, and capture reports (R106 to R119). -/

namespace Sys2Proof.Machine

/-! ## Slots -/

/-- R107: the slots of a ring of `length` units. -/
def ringSlots (length : Nat) : Nat := Config.slotsPerUnit * length

/-- R107: the slot of a ring position. -/
def slotOf (base position : Nat) : Nat := Config.slotsPerUnit * base + position

/-- The contents of a slot; a slot number outside 0 to 127 does not exist and holds nothing. -/
def readSlot (slots : Vector (Option CaptureRecord) 128) (i : Nat) : Option CaptureRecord :=
  if h : i < 128 then slots[i] else none

/-- A slot takes new contents; a slot number outside 0 to 127 does not exist. -/
def writeSlot (slots : Vector (Option CaptureRecord) 128) (i : Nat) (x : Option CaptureRecord) :
    Vector (Option CaptureRecord) 128 :=
  if h : i < 128 then slots.set i x h else slots

/-- The slots at the given numbers become empty. -/
def clearSlots (slots : Vector (Option CaptureRecord) 128) (is : List Nat) : Vector (Option CaptureRecord) 128 :=
  is.foldl (fun v i => writeSlot v i none) slots

/-- R107: the ring position `k` places behind the head, in a ring of `size` slots. -/
def ringPosition (head k size : Nat) : Nat := (head + k) % size

/-- R107: the slot numbers of the `k` oldest records of view `v`'s ring, oldest first. -/
def headSlots (s : State) (v : LinkId) (k : Nat) : List Nat :=
  (List.range k).map fun j =>
    slotOf s.views[v].settings.ringBase
      (ringPosition s.rings[v].head j (ringSlots s.views[v].settings.ringLength))

/-- R107: the records of view `v`'s ring, oldest first. -/
def ringRecords (s : State) (v : LinkId) : List CaptureRecord :=
  (headSlots s v s.rings[v].count).filterMap (readSlot s.slots)

/-! ## Appending and drops -/

/-- R112: one view at the hand-over of a record. -/
def appendTo (r : CaptureRecord) (s : State) (v : LinkId) : State :=
  let ring := s.rings[v]
  let size := ringSlots s.views[v].settings.ringLength
  if s.views[v].settings.triggerSelection.getLsbD r.trigger.val then
    if ring.count < size then
      { s with
        slots := writeSlot s.slots (slotOf s.views[v].settings.ringBase (ringPosition ring.head ring.count size)) (some r)
        rings := put s.rings v { ring with count := ring.count + 1 } }
    else s.modRing v fun g => { g with dropped := satInc Config.droppedMax g.dropped }
  else s

/-- R102, R112: a finished record is handed over, to each view in turn. -/
def appendRecord (r : CaptureRecord) (s : State) : State := allLinks.foldl (appendTo r) s

/-! ## Emptying and removal -/

/-- R110, R111: every record of the ring is discarded, and the dropped count becomes 0. -/
def emptyRing (v : LinkId) (s : State) : State :=
  { s with
    slots := clearSlots s.slots (headSlots s v s.rings[v].count)
    rings := put s.rings v { s.rings[v] with head := 0, count := 0, dropped := 0 } }

/-- R118: the `k` oldest records leave the ring. -/
def removeHead (v : LinkId) (k : Nat) (s : State) : State :=
  { s with
    slots := clearSlots s.slots (headSlots s v k)
    rings := put s.rings v
      { s.rings[v] with
        head := ringPosition s.rings[v].head k (ringSlots s.views[v].settings.ringLength)
        count := s.rings[v].count - k } }

/-! ## Placement -/

/-- R108: the range check on a placement. -/
def placementInRange (base length : Nat) : Bool :=
  decide (base ≤ 15) && decide (length ≤ Config.units) && decide (base + length ≤ Config.units)

/-- R108: whether two placements share a slot. A ring of length 0 covers no slot. -/
def placementsShare (base length base' length' : Nat) : Bool :=
  decide (0 < length) && decide (0 < length') && decide (base < base' + length') && decide (base' < base + length)

/-- R108: whether a placement of view `v` covers a slot of another view's ring. -/
def overlapsOther (views : Vector View 4) (v : LinkId) (base length : Nat) : Bool :=
  allLinks.any fun u =>
    decide (u ≠ v) && placementsShare base length views[u].settings.ringBase views[u].settings.ringLength

/-! ## Capture reports -/

/-- R93, R161: the code of an entry's status. -/
def EntryStatus.code : EntryStatus → Nat
  | .current => 0
  | .fresh => 1
  | .stale => 2

/-- R161: the code of an edge. -/
def Edge.code : Edge → Nat
  | .rising => 0
  | .falling => 1

/-- 11.5: the ten bytes of an entry. -/
def recordEntryBytes (e : RecordEntry) : List Byte :=
  [byteOf e.channel.val, byteOf e.status.code] ++ be32 e.along ++ be32 e.across

/-- 11.5: the bytes of a record. -/
def recordBytes (r : CaptureRecord) : List Byte :=
  [byteOf r.trigger.val, byteOf (r.edge.code + 2 * bitOf r.overlap), byteOf r.entries.length] ++ be32 r.timestamp ++
    r.entries.flatMap recordEntryBytes

/-- R116: the size of a record in a report. -/
def recordSize (r : CaptureRecord) : Nat := 7 + 10 * r.entries.length

/-- R115: records from the head, at most `n` and as far as `room` bytes allow, stopping at the first that does not
fit. -/
def takeRecords : Nat → Nat → List CaptureRecord → List CaptureRecord
  | 0, _, _ => []
  | _ + 1, _, [] => []
  | n + 1, room, r :: rs => if recordSize r ≤ room then r :: takeRecords n (room - recordSize r) rs else []

/-- R115, 11.5: the payload of a CAPTURE REPORT. -/
def capturePayload (dropped : Nat) (more : Bool) (rs : List CaptureRecord) : List Byte :=
  [byteOf dropped, byteOf (rs.length + 128 * bitOf more)] ++ rs.flatMap recordBytes

/-- R114, R115: a CAPTURE READ is executed on link `l`. -/
def runCaptureRead (l : LinkId) (n : Byte) (s : State) : State :=
  if n = 0 then sendResult l (.captureRead n) .outOfRange s
  else
    let ring := s.rings[l]
    let rs := takeRecords n.toNat (s.views[l].settings.maxReply - 2) (ringRecords s l)
    send l (longReply .captureReport (capturePayload ring.dropped (decide (rs.length < ring.count)) rs))
      (s.modRing l fun g => { g with report := some { records := rs.length, dropped := ring.dropped } })

/-- R118: the delivery of a CAPTURE REPORT. -/
def deliverCapture (l : LinkId) (s : State) : State :=
  match s.rings[l].report with
  | none => s
  | some rep =>
    attendAll ((removeHead l rep.records s).modRing l fun g =>
      { g with dropped := g.dropped - rep.dropped, report := none })

/-- R119: the abort of a CAPTURE REPORT. -/
def abortCapture (l : LinkId) (s : State) : State := s.modRing l fun g => { g with report := none }

end Sys2Proof.Machine
end

