-- ==== Sys2Proof/Machine/TriggerUnit.lean ====
section
/-! DEFINITION. The trigger unit: sampling, qualification, captures and their completion (R87 to R105). -/

namespace Sys2Proof.Machine

/-! ## Entries -/

/-- R98, R99: an entry that is not filled. -/
def EntryStage.waiting : EntryStage → Bool
  | .awaitingGrant => true
  | .awaitingResult => true
  | .filled _ _ _ => false

/-- R97, R98: an entry whose exchange has been granted. -/
def EntryStage.granted : EntryStage → Bool
  | .awaitingGrant => false
  | .awaitingResult => true
  | .filled _ _ _ => false

/-- R96: an entry at a grant to channel `c`. -/
def Entry.grant (c : ChannelId) (e : Entry) : Entry :=
  if e.channel = c ∧ e.stage = .awaitingGrant then { e with stage := .awaitingResult } else e

/-- R97 to R99: an entry of channel `c` in a selected stage is filled. -/
def Entry.fill (sel : EntryStage → Bool) (c : ChannelId) (filled : EntryStage) (e : Entry) : Entry :=
  if e.channel = c ∧ sel e.stage = true then { e with stage := filled } else e

/-- Every entry of every open capture is changed. -/
def mapEntries (f : Entry → Entry) (s : State) : State :=
  { s with
    triggers := tab4 fun t =>
      { s.triggers[t] with capture := s.triggers[t].capture.map fun cap => { cap with entries := cap.entries.map f } } }

/-- R96: the trigger unit at a grant to channel `c`. -/
def grantEntries (c : ChannelId) (s : State) : State := mapEntries (Entry.grant c) s

/-- R97 to R99: entries of channel `c` are filled with its absolute positions as they stand. -/
def fillEntries (sel : EntryStage → Bool) (c : ChannelId) (status : EntryStatus) (s : State) : State :=
  mapEntries
    (Entry.fill sel c (.filled status s.channels[c].absoluteAlong s.channels[c].absoluteAcross)) s

/-! ## Completion and hand-over -/

/-- R102: the entries of a finished record, or none while one is unfilled. -/
def finishedEntries : List Entry → Option (List RecordEntry)
  | [] => some []
  | e :: es =>
    match e.stage, finishedEntries es with
    | .filled st x y, some rs => some ({ channel := e.channel, status := st, along := x, across := y } :: rs)
    | _, _ => none

/-- R93, R102: the finished record of a capture of trigger `t`, or none while an entry is unfilled. -/
def finishedRecord (t : TriggerId) (cap : Capture) : Option CaptureRecord :=
  (finishedEntries cap.entries).map fun es =>
    { trigger := t, edge := cap.edge, overlap := cap.overlap, timestamp := cap.timestamp, entries := es }

/-- The finished record that trigger `t` holds, if its capture has no unfilled entry. -/
def completeCapture? (s : State) (t : TriggerId) : Option CaptureRecord :=
  match s.triggers[t].capture with
  | none => none
  | some cap => finishedRecord t cap

/-- R102: a complete capture is handed over, and its trigger has no capture in flight. -/
def finishCapture (s : State) (t : TriggerId) : State :=
  match completeCapture? s t with
  | none => s
  | some r => appendRecord r (s.modTrigger t fun g => { g with capture := none })

/-- R102, R112: the captures that an event completed are handed over in ascending trigger number. -/
def finishCaptures (s : State) : State := allTriggers.foldl finishCapture s

/-! ## Qualified edges -/

/-- The channels of a mask in ascending order. -/
def maskChannels (m : Byte) : List ChannelId := allChannels.filter fun c => m.getLsbD c.val

/-- R94, R95: the stage an entry has at its edge. -/
def stageAtEdge (mode : CaptureMode) (ch : Channel) : EntryStage :=
  match ch.state, mode with
  | .active, .instant => .filled .current ch.absoluteAlong ch.absoluteAcross
  | .active, .refresh => .awaitingGrant
  | .off, _ => .filled .stale ch.absoluteAlong ch.absoluteAcross
  | .identify, _ => .filled .stale ch.absoluteAlong ch.absoluteAcross
  | .faulted, _ => .filled .stale ch.absoluteAlong ch.absoluteAcross

/-- R94, R95: the capture that an edge builds. -/
def captureAtEdge (s : State) (t : TriggerId) (edge : Edge) : Capture :=
  { edge := edge, overlap := false, timestamp := s.tickCount,
    entries := (maskChannels s.settings.triggers[t].mask).map fun c =>
      { channel := c, stage := stageAtEdge s.settings.triggers[t].mode s.channels[c] } }

/-- R46, R95: the priority flags that a REFRESH capture asks for. -/
def requestRefresh (s : State) (t : TriggerId) : State :=
  { s with
    polls := tab8 fun c =>
      if s.settings.triggers[t].mode = .refresh ∧ s.settings.triggers[t].mask.getLsbD c.val = true ∧
          s.channels[c].state = .active then
        { s.polls[c] with priority := true }
      else s.polls[c] }

/-- R94, R95: a qualified edge that finds no capture in flight. A capture with every entry filled is handed over in
this event and is never in flight. -/
def openCapture (t : TriggerId) (edge : Edge) (s : State) : State :=
  finishCapture ((requestRefresh s t).modTrigger t fun g => { g with capture := some (captureAtEdge s t edge) }) t

/-- R92: the direction of the confirmed change away from a stable level. -/
def changeFrom : Level → Edge
  | .low => .rising
  | .high => .falling

/-- R92: whether a confirmed change is a qualified edge. -/
def qualifies : EdgeSetting → Edge → Bool
  | .rising, .rising => true
  | .rising, .falling => false
  | .falling, .rising => false
  | .falling, .falling => true
  | .both, _ => true

/-- R92, R101: a qualified edge opens a capture, or is dropped and marks the capture in flight. -/
def qualifiedEdge (t : TriggerId) (edge : Edge) (s : State) : State :=
  match s.triggers[t].capture with
  | none => openCapture t edge s
  | some cap => s.modTrigger t fun g => { g with capture := some { cap with overlap := true } }

/-- R91, R92: a change of level is confirmed. The settings, channels and rings are read at this event, as the commands
since the sample have left them (log 33). -/
def confirmEvent (t : TriggerId) (s : State) : State :=
  let g := s.triggers[t]
  if g.confirmOwed then
    let s1 := s.modTrigger t fun g => { g with stable := g.stable.flip, run := 0, confirmOwed := false }
    if qualifies s.settings.triggers[t].edge (changeFrom g.stable) then
      attendAll (qualifiedEdge t (changeFrom g.stable) s1)
    else s1
  else s

/-- TRIGGER_EDGE_QUALIFIED (R92). It does not take place unless a sample of this tick met the filter (log 1, log 3). -/
def execTriggerEdgeQualified (t : TriggerId) (s : State) : Result := onRunning (confirmEvent t) s

/-! ## Sampling -/

/-- R90, R91: one sample of a trigger's line. -/
def Trigger.sample (filter : Nat) (level : Level) (g : Trigger) : Trigger :=
  match g.watch with
  | .off => g
  | .starting => { g with watch := .watching, stable := level, run := 0, confirmOwed := false }
  | .watching =>
    if level = g.stable then { g with run := 0, confirmOwed := false }
    else
      let run := satInc Config.runMax g.run
      { g with run := run, confirmOwed := decide (filter + 1 ≤ run) }

/-- R90: the trigger when its enable changes from 0 to 1. -/
def Trigger.start (g : Trigger) : Trigger := { g with watch := .starting, run := 0, confirmOwed := false }

/-- R90: the trigger when its enable changes from 1 to 0. A run in progress is dropped, and a capture in flight is not
touched. A change that a sample has confirmed, and whose TRIGGER_EDGE_QUALIFIED has not come yet, is dropped with the
run: a choice of the model (log 33). -/
def Trigger.stop (g : Trigger) : Trigger := { g with watch := .off, run := 0, confirmOwed := false }

end Sys2Proof.Machine
end

