-- ==== Sys2Proof/Machine/ViewStore.lean ====
section
/-! DEFINITION. The view store: accounts, accumulation, motion reports, VIEW RESET (R51 to R65, R71 to R86). -/

namespace Sys2Proof.Machine

/-! ## Accumulation -/

/-- R54: the least pending value while `r` is being reported (0 when nothing is). -/
def pendingLow (r : Int) : Int := if 0 < r then -Config.pendingLimit + r else -Config.pendingLimit

/-- R54: the greatest pending value while `r` is being reported (0 when nothing is). -/
def pendingHigh (r : Int) : Int := if r < 0 then Config.pendingLimit + r else Config.pendingLimit

/-- R54: a delta joins a pending value; the Boolean says that the value was held at a limit. -/
def addPending (r pending delta : Int) : Int × Bool :=
  let sum := pending + delta
  if pendingHigh r < sum then (pendingHigh r, true)
  else if sum < pendingLow r then (pendingLow r, true)
  else (sum, false)

/-- R53: a minimum quality is lowered. -/
def lowerQuality (quality old : Byte) : Byte := if quality < old then quality else old

/-- R53: an account takes a successful motion exchange; `r` are the reported amounts in flight. -/
def Account.accumulate (rAlong rAcross along across : Int) (quality : Byte) (a : Account) : Account :=
  let x := addPending rAlong a.along along
  let y := addPending rAcross a.across across
  { along := x.1, across := y.1, gap := a.gap,
    spill := if x.2 || y.2 then satInc Config.accountCountMax a.spill else a.spill,
    minQuality := lowerQuality quality a.minQuality }

/-- R56: the line of a channel in the report in flight. -/
def View.lineFor (v : View) (c : ChannelId) : Option ReportLine :=
  match v.report with
  | none => none
  | some lines => lines.find? fun ln => ln.channel == c

/-- R54: the reported along amount in flight for a channel, 0 if none. -/
def View.reportedAlong (v : View) (c : ChannelId) : Int :=
  match v.lineFor c with
  | none => 0
  | some ln => ln.along

/-- R54: the reported across amount in flight for a channel, 0 if none. -/
def View.reportedAcross (v : View) (c : ChannelId) : Int :=
  match v.lineFor c with
  | none => 0
  | some ln => ln.across

/-- R53: the after-compose minimum of the lines of a channel is lowered. -/
def lowerAfterMin (c : ChannelId) (quality : Byte) (lines : List ReportLine) : List ReportLine :=
  lines.map fun ln => if ln.channel = c then { ln with afterMin := lowerQuality quality ln.afterMin } else ln

/-- R53: a view takes a successful motion exchange on channel `c`. -/
def View.accumulate (c : ChannelId) (along across : BitVec 12) (quality : Byte) (v : View) : View :=
  match v.account? c with
  | none => v
  | some a =>
    { v with
      accounts := put v.accounts c
        (some (a.accumulate (v.reportedAlong c) (v.reportedAcross c) along.toInt across.toInt quality))
      report := v.report.map (lowerAfterMin c quality) }

/-- R55: a view counts a motion exchange whose motion could not be counted. -/
def View.countGap (c : ChannelId) (v : View) : View :=
  match v.account? c with
  | none => v
  | some a => { v with accounts := put v.accounts c (some { a with gap := satInc Config.accountCountMax a.gap }) }

/-- R53: every view takes a successful motion exchange. -/
def accumulateAll (c : ChannelId) (along across : BitVec 12) (quality : Byte) (s : State) : State :=
  { s with views := tab4 fun i => s.views[i].accumulate c along across quality }

/-- R55: every view counts a gap. -/
def gapAll (c : ChannelId) (s : State) : State := { s with views := tab4 fun i => s.views[i].countGap c }

/-! ## Composition of a motion report -/

/-- R74: the largest amount of a report width. -/
def widthLimit : ReportWidth → Int
  | .w8 => 127
  | .w12 => 2047
  | .w16 => 32767

/-- R74: the reported amount of a pending value. -/
def reportedAmount (w : ReportWidth) (pending : Int) : Int := max (-widthLimit w) (min (widthLimit w) pending)

/-- R74, 11.5: an amount as sent, two's complement. -/
def amountBytes (w : ReportWidth) (x : Int) : List Byte :=
  match w with
  | .w8 => [BitVec.ofInt 8 x]
  | .w12 => be16 (BitVec.ofInt 16 x)
  | .w16 => be16 (BitVec.ofInt 16 x)

/-- R77: the size of an entry. -/
def entrySize (w : ReportWidth) (absolute : Bool) : Nat :=
  (match w with
    | .w8 => 6
    | .w12 => 8
    | .w16 => 8) + (if absolute then 8 else 0)

/-- R73: an account that changed-only skips. -/
def Account.unchanged (a : Account) : Bool :=
  decide (a.along = 0) && decide (a.across = 0) && decide (a.gap = 0) && decide (a.spill = 0)

/-- R73: the account of a channel that gives an entry, before truncation. -/
def selectAccount (v : View) (mask : Byte) (changedOnly : Bool) (c : ChannelId) : Option (ChannelId × Account) :=
  if mask.getLsbD c.val then
    match v.account? c with
    | none => none
    | some a => if changedOnly && a.unchanged then none else some (c, a)
  else none

/-- R73: the selected channels in ascending order, with their accounts. -/
def selectedAccounts (v : View) (mask : Byte) (changedOnly : Bool) : List (ChannelId × Account) :=
  allChannels.filterMap (selectAccount v mask changedOnly)

/-- R77: how many entries fit in the view's max reply. -/
def entriesThatFit (v : View) : Nat :=
  (v.settings.maxReply - 2) / entrySize v.settings.width v.settings.includeAbsolute

/-- R77: the entries of the report. -/
def includedAccounts (v : View) (mask : Byte) (changedOnly : Bool) : List (ChannelId × Account) :=
  (selectedAccounts v mask changedOnly).take (entriesThatFit v)

/-- R72: the line of an entry. -/
def reportLine (w : ReportWidth) (x : ChannelId × Account) : ReportLine :=
  { channel := x.1, along := reportedAmount w x.2.along, across := reportedAmount w x.2.across, gap := x.2.gap,
    spill := x.2.spill, afterMin := 255 }

/-- R75, 11.5: the bytes of an entry. -/
def entryBytes (s : State) (v : View) (x : ChannelId × Account) : List Byte :=
  let ch := s.channels[x.1]
  let w := v.settings.width
  [byteOf x.1.val, byteOf (16 * ch.state.code + tierCode s.polls[x.1].tier), byteOf (16 * x.2.gap + x.2.spill),
    x.2.minQuality] ++ amountBytes w (reportedAmount w x.2.along) ++ amountBytes w (reportedAmount w x.2.across) ++
    (if v.settings.includeAbsolute then be32 ch.absoluteAlong ++ be32 ch.absoluteAcross else [])

/-- R78, 11.5: the payload of a MOTION REPORT. -/
def motionPayload (s : State) (v : View) (mask : Byte) (changedOnly : Bool) : List Byte :=
  let entries := includedAccounts v mask changedOnly
  [byteOf entries.length, byteOf (bitOf (decide (entries.length < (selectedAccounts v mask changedOnly).length)))] ++
    entries.flatMap (entryBytes s v)

/-- R71, R72: a MOTION READ is executed on link `l`. -/
def runMotionRead (l : LinkId) (mask options : Byte) (s : State) : State :=
  if options = 0 ∨ options = 1 then
    let v := s.views[l]
    let changedOnly := decide (options = 1)
    send l (longReply .motionReport (motionPayload s v mask changedOnly))
      (s.modView l fun w =>
        { w with report := some ((includedAccounts v mask changedOnly).map (reportLine v.settings.width)) })
  else sendResult l (.motionRead mask options) .outOfRange s

/-! ## Delivery and abort -/

/-- R80 to R82: a line of the record is applied to its account. -/
def Account.applyLine (ln : ReportLine) (a : Account) : Account :=
  { along := a.along - ln.along, across := a.across - ln.across, gap := a.gap - ln.gap, spill := a.spill - ln.spill,
    minQuality := ln.afterMin }

/-- R80: a line of the record is applied to the view. -/
def applyLine (accounts : Vector (Option Account) 8) (ln : ReportLine) : Vector (Option Account) 8 :=
  upd accounts ln.channel (Option.map (Account.applyLine ln))

/-- R80 to R84: the delivery of a MOTION REPORT. -/
def deliverMotion (l : LinkId) (s : State) : State :=
  match s.views[l].report with
  | none => s
  | some lines =>
    attendAll (s.modView l fun v => { v with accounts := lines.foldl applyLine v.accounts, report := none })

/-- R85: the abort of a MOTION REPORT. -/
def abortMotion (l : LinkId) (s : State) : State := s.modView l fun v => { v with report := none }

/-! ## Subscription and VIEW RESET -/

/-- R57: the accounts after the mask becomes `mask`. -/
def resubscribe (v : View) (mask : Byte) : Vector (Option Account) 8 :=
  tab8 fun c =>
    if mask.getLsbD c.val then
      (if v.subscribed c then v.accounts[c] else some Account.created)
    else none

/-- R59: the view at a VIEW RESET. -/
def View.clear (v : View) : View :=
  { v with
    accounts := tab8 fun c => v.accounts[c].map fun _ => Account.created
    leaseLost := false
    lostAgain := false }

/-- R59, R111: a VIEW RESET is executed on link `l`. -/
def runViewReset (l : LinkId) (s : State) : State :=
  sendResult l .viewReset .ok (attendAll (emptyRing l (s.modView l View.clear)))

/-- R68: the pulse timer takes its tick. -/
def pulseTickEvent (v : LinkId) (s : State) : State :=
  if s.attention[v].tickOwed then
    attendAll (s.modAttention v fun a => { a with timer := a.timer.tick, tickOwed := false })
  else s

/-- PULSE_TIMER_TICK (R68). It does not take place unless a tick has come since the last one (log 1, log 3). -/
def execPulseTimerTick (v : LinkId) (s : State) : Result := onRunning (pulseTickEvent v) s

end Sys2Proof.Machine
end

