-- ==== Sys2Proof/Machine/ChannelUnit.lean ====
section
/-! DEFINITION. The channel unit: enable, disable, and what an exchange's outcome does to its channel and to its
neighbours (R1 to R19). -/

namespace Sys2Proof.Machine

/-! ## Enable and disable -/

/-- R4: the channel record at an enable. -/
def Channel.enabled (ch : Channel) : Channel := { ch with state := .identify, faults := 0, lastCause := .none }

/-- R5: the channel record at a disable. -/
def Channel.disabled (ch : Channel) : Channel := { ch with state := .off, faults := 0 }

/-- R4, R45: a channel's enable changes from 0 to 1. -/
def enableChannel (c : ChannelId) (s : State) : State :=
  (s.modChannel c Channel.enabled).modPoll c fun p => { p with due := true }

/-- R5, R30: the exchange in flight is marked if it is for channel `c`. -/
def markDiscard (c : ChannelId) (b : Bus) : Bus :=
  match b.exchange with
  | none => b
  | some e => if e.channel = c then { b with exchange := some { e with discard := true } } else b

/-- R5, R45, R99: a channel's enable changes from 1 to 0. -/
def disableChannel (c : ChannelId) (s : State) : State :=
  let s1 := (s.modChannel c Channel.disabled).modPoll c Poll.disabled
  let s2 : State := { s1 with bus := markDiscard c s1.bus }
  finishCaptures (fillEntries EntryStage.waiting c .stale s2)

/-! ## Outcomes -/

/-- The outcome of a completed exchange (R13, R28, R29). -/
inductive ExchangeOutcome where
  | identified
  | moved (along across : BitVec 12) (quality : Byte)
  | failed (cause : FaultCause)
deriving DecidableEq, Repr

/-- R8: the channel record at an identify success. -/
def Channel.identified (ch : Channel) : Channel := { ch with state := .active, faults := 0 }

/-- R9: the channel record at an identify failure. -/
def Channel.identifyFailed (cause : FaultCause) (ch : Channel) : Channel :=
  match ch.state with
  | .identify =>
    { ch with
      lastCause := cause
      faults := ch.faults + 1
      state := if Config.faultLimit ≤ ch.faults + 1 then .faulted else .identify }
  | .faulted => { ch with lastCause := cause }
  | .off => ch
  | .active => ch

/-- R10: the channel record at a motion success. -/
def Channel.moved (along across : BitVec 12) (ch : Channel) : Channel :=
  { ch with
    movementAlong := ch.movementAlong + along.signExtend 32
    movementAcross := ch.movementAcross + across.signExtend 32
    faults := 0 }

/-- R12: the channel record at a motion failure. -/
def Channel.motionFailed (cause : FaultCause) (ch : Channel) : Channel :=
  { ch with
    lastCause := cause
    faults := ch.faults + 1
    state := if Config.faultLimit ≤ ch.faults + 1 then .faulted else .active }

/-- R8, R43: an identify success on channel `c`. -/
def identifySuccess (c : ChannelId) (s : State) : State :=
  (s.modChannel c Channel.identified).modPoll c (Poll.identified s.settings.channels[c])

/-- R9, R43: the tier whose period follows an identify failure. -/
def retryTier (ch : Channel) : Tier := if ch.state = .faulted then .t3 else .t0

/-- R9, R43: an identify failure on channel `c`. -/
def identifyFailure (c : ChannelId) (cause : FaultCause) (s : State) : State :=
  let s1 := s.modChannel c (Channel.identifyFailed cause)
  s1.modPoll c (Poll.reload s.settings.channels[c] (retryTier s1.channels[c]))

/-- R10, R11, R53, R42, R43, R97: a motion success on channel `c`. -/
def motionSuccess (c : ChannelId) (along across : BitVec 12) (quality : Byte) (s : State) : State :=
  let s1 := accumulateAll c along across quality (s.modChannel c (Channel.moved along across))
  let s2 := s1.modPoll c (Poll.motionDone s.settings.channels[c] (decide (along ≠ 0) || decide (across ≠ 0)))
  finishCaptures (fillEntries EntryStage.granted c .fresh s2)

/-- R12, R43, R44: the scheduler at a motion failure; `ch` is the channel as the failure leaves it. -/
def Poll.motionFailed (cs : ChannelSettings) (ch : Channel) (p : Poll) : Poll :=
  if ch.state = .faulted then Poll.reload cs .t3 { p with priority := false } else Poll.reload cs p.tier p

/-- R98: which entries a motion failure fills; `ch` is the channel as the failure leaves it. -/
def failureFills (ch : Channel) : EntryStage → Bool :=
  if ch.state = .faulted then EntryStage.waiting else EntryStage.granted

/-- R12, R55, R43, R44, R98: a motion failure on channel `c`. -/
def motionFailure (c : ChannelId) (cause : FaultCause) (s : State) : State :=
  let s1 := gapAll c (s.modChannel c (Channel.motionFailed cause))
  let s2 := s1.modPoll c (Poll.motionFailed s.settings.channels[c] s1.channels[c])
  finishCaptures (fillEntries (failureFills s1.channels[c]) c .stale s2)

/-- R6: a completion with the discard mark. -/
def discardedCompletion (e : Exchange) (s : State) : State :=
  match e.kind with
  | .motion => gapAll e.channel s
  | .identify => s

/-- R7 to R12: an unmarked completion. R7 names the states it can find; in any other nothing is applied (log 21). -/
def applyOutcome (e : Exchange) (o : ExchangeOutcome) (s : State) : State :=
  match e.kind, s.channels[e.channel].state, o with
  | .identify, .identify, .identified => identifySuccess e.channel s
  | .identify, .faulted, .identified => identifySuccess e.channel s
  | .identify, .identify, .failed cause => identifyFailure e.channel cause s
  | .identify, .faulted, .failed cause => identifyFailure e.channel cause s
  | .motion, .active, .moved along across quality => motionSuccess e.channel along across quality s
  | .motion, .active, .failed cause => motionFailure e.channel cause s
  | _, _, _ => s

/-- R6, R7, R29: a completion reaches the channel unit. -/
def applyCompletion (e : Exchange) (o : ExchangeOutcome) (s : State) : State :=
  if e.discard then discardedCompletion e s else applyOutcome e o s

/-! ## PRESET -/

/-- R15: the channel record after a PRESET. -/
def Channel.preset (axes : Byte) (along across : Word32) (ch : Channel) : Channel :=
  { ch with
    offsetAlong := if axes = 1 ∨ axes = 3 then along - ch.movementAlong else ch.offsetAlong
    offsetAcross := if axes = 2 ∨ axes = 3 then across - ch.movementAcross else ch.offsetAcross }

end Sys2Proof.Machine
end

