-- ==== Sys2Proof/Machine/SettingsTable.lean ====
section
/-! DEFINITION. The settings table: reading, the checks of a write, its application, and PRESET (R128 to R135, R164). -/

namespace Sys2Proof.Machine

/-! ## Reading -/

/-- A number as a setting's value (R164: unused upper bits read 0). -/
def wordOf (n : Nat) : Word := BitVec.ofNat 16 n

/-- R127, R128, R164: the identity and global values. -/
def readGlobal (s : State) : GlobalField → Word
  | .partCode => Config.partCode
  | .revision => Config.revision
  | .invertedRevision => Config.invertedRevision
  | .rate => wordOf s.straps.rate.toNat
  | .links => wordOf (bitOf s.straps.twoLinks)
  | .autostart => wordOf (bitOf s.straps.autostart)
  | .tickHigh => highHalf s.tickCount
  | .tickLow => lowHalf s.tickCount
  | .leaseHolder => wordOf (holderCode s.lease.holder)
  | .leaseRemaining => wordOf s.lease.countdown.remaining
  | .leaseTimeout => wordOf s.settings.leaseTimeout

/-- R19, R50, R164: the values of one channel. -/
def readChannel (cs : ChannelSettings) (ch : Channel) (p : Poll) : ChannelField → Word
  | .enable => wordOf (bitOf cs.enable)
  | .expectedId => wordOf cs.expectedId.toNat
  | .t0Period => wordOf cs.t0Period
  | .t1Period => wordOf cs.t1Period
  | .t2Period => wordOf cs.t2Period
  | .t3Period => wordOf cs.t3Period
  | .d0 => wordOf cs.d0
  | .d1 => wordOf cs.d1
  | .d2 => wordOf cs.d2
  | .forcedTier => wordOf (forcedTierCode cs.forcedTier)
  | .state => wordOf ch.state.code
  | .tier => wordOf (tierCode p.tier)
  | .faults => wordOf ch.faults
  | .lastCause => wordOf ch.lastCause.code
  | .alongHigh => highHalf ch.absoluteAlong
  | .alongLow => lowHalf ch.absoluteAlong
  | .acrossHigh => highHalf ch.absoluteAcross
  | .acrossLow => lowHalf ch.absoluteAcross

/-- R87, R164: the settings of one trigger. -/
def readTrigger (ts : TriggerSettings) : TriggerField → Word
  | .enable => wordOf (bitOf ts.enable)
  | .edge => wordOf ts.edge.code
  | .filter => wordOf ts.filter
  | .mode => wordOf ts.mode.code
  | .mask => wordOf ts.mask.toNat

/-- R62, R164: the own-view settings. -/
def readOwn (vs : ViewSettings) : OwnField → Word
  | .mask => wordOf vs.mask.toNat
  | .width => wordOf vs.width.code
  | .includeAbsolute => wordOf (bitOf vs.includeAbsolute)
  | .maxReply => wordOf vs.maxReply
  | .triggerSelection => wordOf vs.triggerSelection.toNat
  | .attentionMode => wordOf (attentionModeCode vs.attentionMode)
  | .polarity => wordOf (polarityCode vs.polarity)
  | .sources => wordOf vs.sources.toNat
  | .ringBase => wordOf vs.ringBase
  | .ringLength => wordOf vs.ringLength

/-- R128 to R130: the value of a setting as a request on link `l` reads it. -/
def readSetting (s : State) (l : LinkId) : Setting → Word
  | .global f => readGlobal s f
  | .channel c f => readChannel s.settings.channels[c] s.channels[c] s.polls[c] f
  | .trigger t f => readTrigger s.settings.triggers[t] f
  | .own f => readOwn s.views[l].settings f

/-- R130: the checks of a SETTING READ, in order; the settings to be read. -/
def checkRead (payload : List Byte) : Except ResultCode (List Setting) :=
  match parseRead payload with
  | none => .error .badRequest
  | some (a, n) =>
    if 1 ≤ n ∧ n ≤ 32 then
      match resolveRun a n with
      | some run => .ok run
      | none => .error .badAddress
    else .error .outOfRange

/-- R130: a SETTING READ is executed on link `l`. -/
def runSettingRead (l : LinkId) (payload : List Byte) (s : State) : State :=
  match checkRead payload with
  | .error code => sendResult l (.settingRead payload) code s
  | .ok run => send l (longReply .settingData (run.flatMap fun x => be16 (readSetting s l x))) s

/-! ## The checks of a write -/

/-- R132: the settings as a write would leave them: the shared ones, and those of the requesting link's view. -/
structure Candidate where
  shared : Settings
  own : ViewSettings
deriving DecidableEq, Repr

/-- R39, R132: one setting of a channel as written, or none where the value is illegal or not writable. -/
def writeChannel (n : Nat) (cs : ChannelSettings) : ChannelField → Option ChannelSettings
  | .enable => (flagOf? n).map fun x => { cs with enable := x }
  | .expectedId => (inRange? 0 255 n).map fun x => { cs with expectedId := byteOf x }
  | .t0Period => (inRange? 1 100 n).map fun x => { cs with t0Period := x }
  | .t1Period => (inRange? 1 250 n).map fun x => { cs with t1Period := x }
  | .t2Period => (inRange? 1 250 n).map fun x => { cs with t2Period := x }
  | .t3Period => (inRange? 1 250 n).map fun x => { cs with t3Period := x }
  | .d0 => (inRange? 1 255 n).map fun x => { cs with d0 := x }
  | .d1 => (inRange? 1 255 n).map fun x => { cs with d1 := x }
  | .d2 => (inRange? 1 255 n).map fun x => { cs with d2 := x }
  | .forcedTier => (forcedTierOf? n).map fun x => { cs with forcedTier := x }
  | .state => none
  | .tier => none
  | .faults => none
  | .lastCause => none
  | .alongHigh => none
  | .alongLow => none
  | .acrossHigh => none
  | .acrossLow => none

/-- R87, R132: one setting of a trigger as written. -/
def writeTrigger (n : Nat) (ts : TriggerSettings) : TriggerField → Option TriggerSettings
  | .enable => (flagOf? n).map fun x => { ts with enable := x }
  | .edge => (edgeSettingOf? n).map fun x => { ts with edge := x }
  | .filter => (inRange? 0 7 n).map fun x => { ts with filter := x }
  | .mode => (captureModeOf? n).map fun x => { ts with mode := x }
  | .mask => (inRange? 0 255 n).map fun x => { ts with mask := byteOf x }

/-- R62, R108, R132: one own-view setting as written. -/
def writeOwn (n : Nat) (vs : ViewSettings) : OwnField → Option ViewSettings
  | .mask => (inRange? 0 255 n).map fun x => { vs with mask := byteOf x }
  | .width => (reportWidthOf? n).map fun x => { vs with width := x }
  | .includeAbsolute => (flagOf? n).map fun x => { vs with includeAbsolute := x }
  | .maxReply => (inRange? 64 256 n).map fun x => { vs with maxReply := x }
  | .triggerSelection => (inRange? 0 15 n).map fun x => { vs with triggerSelection := BitVec.ofNat 4 x }
  | .attentionMode => (attentionModeOf? n).map fun x => { vs with attentionMode := x }
  | .polarity => (polarityOf? n).map fun x => { vs with polarity := x }
  | .sources => (inRange? 0 15 n).map fun x => { vs with sources := BitVec.ofNat 4 x }
  | .ringBase => (inRange? 0 15 n).map fun x => { vs with ringBase := x }
  | .ringLength => (inRange? 0 16 n).map fun x => { vs with ringLength := x }

/-- R132: one setting as written, or none where its value is illegal. -/
def writeOne (k : Candidate) (x : Setting) (value : Word) : Option Candidate :=
  match x with
  | .global .leaseTimeout =>
    (inRange? 1 255 value.toNat).map fun n => { k with shared := { k.shared with leaseTimeout := n } }
  | .global _ => none
  | .channel c f =>
    (writeChannel value.toNat k.shared.channels[c] f).map fun cs =>
      { k with shared := { k.shared with channels := put k.shared.channels c cs } }
  | .trigger t f =>
    (writeTrigger value.toNat k.shared.triggers[t] f).map fun ts =>
      { k with shared := { k.shared with triggers := put k.shared.triggers t ts } }
  | .own f => (writeOwn value.toNat k.own f).map fun vs => { k with own := vs }

/-- R132: the whole run as written. -/
def writeRun (k : Candidate) : List Setting → List Word → Option Candidate
  | x :: xs, v :: vs =>
    match writeOne k x v with
    | some k' => writeRun k' xs vs
    | none => none
  | _, _ => some k

/-- Whether a run includes a setting of trigger `t`. -/
def touchesTrigger (run : List Setting) (t : TriggerId) : Bool :=
  run.any fun x =>
    match x with
    | .trigger u _ => decide (u = t)
    | .global _ => false
    | .channel _ _ => false
    | .own _ => false

/-- Whether a run includes the setting named. -/
def wrote (run : List Setting) (x : Setting) : Bool := decide (x ∈ run)

/-- R110, R131: whether a run includes ring base or ring length. -/
def touchesRing (run : List Setting) : Bool := wrote run (.own .ringBase) || wrote run (.own .ringLength)

/-- R87, R132: the combination a trigger is left with. -/
def triggerLegal (ts : TriggerSettings) : Bool :=
  decide (maskCount ts.mask ≤ 4) && !(ts.enable && decide (ts.mask = 0))

/-- R132: the combinations that a run leaves, of the triggers and the ring it touches (log 24). -/
def combinationsLegal (run : List Setting) (k : Candidate) : Bool :=
  (allTriggers.all fun t => !touchesTrigger run t || triggerLegal k.shared.triggers[t]) &&
  (!touchesRing run || placementInRange k.own.ringBase k.own.ringLength)

/-- A SETTING WRITE that passed its checks: the settings of its run and what it leaves. -/
structure AcceptedWrite where
  run : List Setting
  left : Candidate
deriving DecidableEq, Repr

/-- R132: the settings before a write by link `l`. -/
def candidateOf (s : State) (l : LinkId) : Candidate := { shared := s.settings, own := s.views[l].settings }

/-- R131: the six checks of a SETTING WRITE on link `l`, in order. -/
def checkWrite (s : State) (l : LinkId) (payload : List Byte) : Except ResultCode AcceptedWrite :=
  match parseWrite payload with
  | none => .error .badRequest
  | some (a, values) =>
    match resolveRun a values.length with
    | none => .error .badAddress
    | some run =>
      if run.any fun x => decide (x.access = .readOnly) then .error .readOnly
      else if (run.any fun x => decide (x.access = .shared)) && decide (s.lease.holder ≠ some l) then .error .noLease
      else
        match writeRun (candidateOf s l) run values with
        | none => .error .outOfRange
        | some k =>
          if combinationsLegal run k then
            (if touchesRing run && overlapsOther s.views l k.own.ringBase k.own.ringLength then .error .overlap
              else .ok { run := run, left := k })
          else .error .outOfRange

/-! ## Applying a write -/

/-- R4, R5, R47, R48, R133: a channel and its scheduler record after a write; `old` are the settings before. -/
def applyEnable (old : Settings) (new : Settings) (s : State) (c : ChannelId) : State :=
  match old.channels[c].enable, new.channels[c].enable with
  | false, true => enableChannel c s
  | true, false => disableChannel c s
  | false, false => s
  | true, true => s

/-- R47, R48: a channel's tier after a write that includes its forced tier. -/
def applyForcedTier (run : List Setting) (old new : Settings) (s : State) (c : ChannelId) : State :=
  if wrote run (.channel c .forcedTier) then
    match new.channels[c].forcedTier, old.channels[c].forcedTier with
    | some t, _ => s.modPoll c fun p => { p with tier := t }
    | none, some _ => s.modPoll c fun p => { p with idleCount := 0 }
    | none, none => s
  else s

/-- R90: a trigger after a write. -/
def applyTriggerEnable (old new : Settings) (s : State) (t : TriggerId) : State :=
  match old.triggers[t].enable, new.triggers[t].enable with
  | false, true => s.modTrigger t Trigger.start
  | true, false => s.modTrigger t Trigger.stop
  | false, false => s
  | true, true => s

/-- R57: the view of the writing link after a write. A mask that keeps its value changes no account. -/
def View.apply (own : ViewSettings) (v : View) : View :=
  { v with
    accounts := if own.mask = v.settings.mask then v.accounts else resubscribe v own.mask
    settings := own }

/-- R133: the own-view settings of the writing link after a write. -/
def applyOwn (l : LinkId) (own : ViewSettings) (s : State) : State := s.modView l (View.apply own)

/-- R110: an accepted placement empties the ring, where the run includes it. -/
def applyPlacement (l : LinkId) (run : List Setting) (s : State) : State :=
  if touchesRing run then emptyRing l s else s

/-- R69: a change of attention mode makes the pulse timer QUIET, and the condition as it then stands is the starting
point. `before` is the mode before the write. A tick still owed to the timer is dropped: a choice of the model
(log 34). -/
def applyAttentionMode (l : LinkId) (before : AttentionMode) (s : State) : State :=
  if s.views[l].settings.attentionMode = before then s
  else
    s.modAttention l fun a =>
      { a with condition := attentionCondition s l, timer := .quiet, tickOwed := false }

/-- R133: an accepted write is applied, in one event. -/
def applyWrite (l : LinkId) (w : AcceptedWrite) (s : State) : State :=
  let old := s.settings
  let new := w.left.shared
  let s1 := applyOwn l w.left.own (applyPlacement l w.run s)
  let s2 : State := { s1 with settings := new }
  let s3 := allChannels.foldl (applyForcedTier w.run old new) (allChannels.foldl (applyEnable old new) s2)
  let s4 := allTriggers.foldl (applyTriggerEnable old new) s3
  attendAll (applyAttentionMode l s.views[l].settings.attentionMode s4)

/-- R131, R133: a SETTING WRITE is executed on link `l`. -/
def runSettingWrite (l : LinkId) (payload : List Byte) (s : State) : State :=
  match checkWrite s l payload with
  | .error code => sendResult l (.settingWrite payload) code s
  | .ok w => sendResult l (.settingWrite payload) .ok (applyWrite l w s)

/-! ## PRESET -/

/-- R134: the checks of a PRESET on link `l`, in order. -/
def checkPreset (s : State) (l : LinkId) (payload : List Byte) : Except ResultCode (ChannelId × PresetOperands) :=
  match parsePreset payload with
  | none => .error .badRequest
  | some p =>
    if s.lease.holder = some l then
      match channelOf? p.channel with
      | some c => if p.axes = 1 ∨ p.axes = 2 ∨ p.axes = 3 then .ok (c, p) else .error .outOfRange
      | none => .error .outOfRange
    else .error .noLease

/-- R15, R134: a PRESET is executed on link `l`. -/
def runPreset (l : LinkId) (payload : List Byte) (s : State) : State :=
  match checkPreset s l payload with
  | .error code => sendResult l (.preset payload) code s
  | .ok (c, p) =>
    sendResult l (.preset payload) .ok (s.modChannel c (Channel.preset p.axes p.along p.across))

end Sys2Proof.Machine
end

