-- ==== Sys2Proof/Machine/Links.lean ====
section
/-! DEFINITION. The link controllers: the receiver, frames that arrive whole, the turn, contention and break (R136 to
R156). -/

namespace Sys2Proof.Machine

/-! ## The receiver -/

/-- R140, R143: the frame is counted in frames discarded, with the condition that ended it. -/
def Link.discardWith (k : Link) (x : LinkCondition) (next : Receiver) : Link :=
  { (k.record x).countDiscarded with receiver := next }

/-- R142, R143: a frame in progress is abandoned; one with its skip mark set was counted already. -/
def Link.abandonWith (k : Link) (skip : Bool) (x : LinkCondition) (next : Receiver) : Link :=
  if skip then { k.record x with receiver := next } else k.discardWith x next

/-- R144: a request of a queued kind arrives whole. -/
def Link.enqueue (k : Link) (r : Request) : Link :=
  if k.queue.length < Config.queueMax then { k.countAccepted with queue := k.queue ++ [r], receiver := .idle }
  else k.discardWith .queueFull .idle

/-- R144, R146: a TURN is accepted. -/
def Link.acceptTurn (k : Link) : Link := { k.countAccepted with owner := .am48, tx := .guard, receiver := .idle }

/-- R144: a NOOP or a FILL is accepted. -/
def Link.acceptQuiet (k : Link) : Link := { k.countAccepted with receiver := .idle }

/-- R141: the condition of a kind that is not a listed request. -/
def badKind (kind : Byte) : LinkCondition := if isPartKind kind then .wrongDirection else .unknownKind

/-- R141, R144: a short frame, whole at its check byte. -/
def Link.shortArrived (k : Link) (kind p0 p1 : Byte) : Link :=
  if kind = turnKind then k.acceptTurn
  else if kind = noopKind then k.acceptQuiet
  else
    match shortRequest? kind p0 p1 with
    | some r => k.enqueue r
    | none => k.discardWith (badKind kind) .idle

/-- R140, R141: the header of a long frame. -/
def Link.longHeader (k : Link) (kind : Byte) (length : Nat) : Link :=
  if length = 0 ∨ 256 < length then k.discardWith .badLength .discard
  else if isLongRequestKind kind then { k with receiver := .payload kind length [] false }
  else k.discardWith (badKind kind) (.payload kind length [] true)

/-- R139: a header that is intact or corrected decides the frame's form. -/
def Link.headerDecided (k : Link) (h : BitVec 24) : Link :=
  let kind : Byte := h.extractLsb' 16 8
  if isShortKind kind then k.shortArrived kind (h.extractLsb' 8 8) (h.extractLsb' 0 8)
  else k.longHeader kind (h.extractLsb' 0 16).toNat

/-- R139, R162: the link at the fourth byte of a frame. -/
def Link.headerArrived (k : Link) (kind second third check : Byte) : Link :=
  let h := headerBits kind second third
  match decodeHeader h check with
  | .intact => k.headerDecided h
  | .corrected h' => ((k.record .headerCorrected).countCorrected).headerDecided h'
  | .uncorrectable => k.discardWith .headerUncorrectable .discard

/-- R122: whether a header is intact or corrected. -/
def headerOk (kind second third check : Byte) : Bool :=
  decide (decodeHeader (headerBits kind second third) check ≠ .uncorrectable)

/-- R122, R139: the fourth byte of a frame arrives on link `l`. -/
def headerEvent (l : LinkId) (kind second third check : Byte) (s : State) : State :=
  let s1 := s.modLink l fun k => k.headerArrived kind second third check
  if headerOk kind second third check then renewLease l s1 else s1

/-- R140, R141, R144: the link at the second CRC byte of a long frame. -/
def Link.longArrived (k : Link) (kind : Byte) (payload : List Byte) (sum : Word) (skip : Bool) : Link :=
  if skip then { k with receiver := .idle }
  else if sum = crc payload then
    (if kind = fillKind then k.acceptQuiet
      else
        match longRequest? kind payload with
        | some r => k.enqueue r
        | none => { k with receiver := .idle })
  else k.discardWith .payloadCrc .idle

/-- R139, R140: the receiver takes a byte while the client owns the line. -/
def receiveByte (l : LinkId) (b : Byte) (s : State) : State :=
  match s.links[l].receiver with
  | .idle => s.modLink l fun k => { k with receiver := .header [b] }
  | .header got =>
    match got with
    | [kind, second, third] => headerEvent l kind second third b s
    | _ => s.modLink l fun k => { k with receiver := .header (got ++ [b]) }
  | .payload kind length got skip =>
    s.modLink l fun k =>
      { k with
        receiver :=
          if got.length + 1 < length then .payload kind length (got ++ [b]) skip
          else .footer kind (got ++ [b]) none skip }
  | .footer kind payload first skip =>
    match first with
    | none => s.modLink l fun k => { k with receiver := .footer kind payload (some b) skip }
    | some hi => s.modLink l fun k => k.longArrived kind payload (word hi b) skip
  | .discard => s
  | .awaitMark _ => s

/-- R137, R148: the levels that the AM48 drives on its line in this character time: those of its next byte while it is
sending, and mark otherwise. -/
def Link.driven (k : Link) : Samples 10 :=
  match k.tx with
  | .sending f =>
    match f.left with
    | b :: _ => character b
    | [] => allMark
  | .guard => allMark
  | .idle => allMark

/-- R136, R148: one character of the frame in transmission has been sent. -/
def Link.sendsOn (k : Link) : Link :=
  match k.tx with
  | .sending f => { k with tx := .sending { f with left := f.left.tail } }
  | .guard => k
  | .idle => k

/-- R137, R151: what the AM48 reads in a character time of its own ownership is compared with what it sends. The line is
open-drain, so it is at space wherever either party drives it low. A character read back as it was sent is the AM48's
own; space read during a bit sent as mark is contention. -/
def Link.readBack (line : Samples 10) (k : Link) : Link :=
  let read := line &&& k.driven
  if hasStartBit read then (if read = k.driven then k else k.record .contention).sendsOn else k

/-- R137, R139, R151: a character time passes on link `l`. A space too short for a start bit is ignored. While the client
owns the line, a character with its stop bit at mark is a received byte; one without is left to FRAMING or BREAK (R138).
A character counts by the ownership at this event, its stop bit, for the command carries no start edge: a choice of the
model (log 32). -/
def takeCharacter (l : LinkId) (line : Samples 10) (s : State) : State :=
  match s.links[l].owner with
  | .client => if hasStartBit line && hasStopBit line then receiveByte l (dataOf line) s else s
  | .am48 => s.modLink l (Link.readBack line)

/-- The characters of these bytes arrive one after another. -/
def takeBytes (l : LinkId) (bytes : List Byte) (s : State) : State :=
  bytes.foldl (fun s b => takeCharacter l (character b) s) s

/-- RECEIVED_BYTE (R139). A byte that is the fourth of a header or the last of a footer is also the event of
FRAME_HEADER_RECEIVED or LONG_FRAME_RECEIVED (log 8). While the AM48 owns the line it is the character read in this
character time, the AM48's own among them (R137, log 12). -/
def execReceivedByte (l : LinkId) (line : Samples 10) (s : State) : Result := onLink l (takeCharacter l line) s

/-- R139: the fourth byte of a frame, where three have come. -/
def fourthByte (l : LinkId) (check : Byte) (s : State) : State :=
  match s.links[l].owner, s.links[l].receiver with
  | .client, .header [kind, second, third] => headerEvent l kind second third check s
  | _, _ => s

/-- FRAME_HEADER_RECEIVED (R139). It does not take place unless three header bytes have come (log 1). -/
def execFrameHeaderReceived (l : LinkId) (check : Byte) (s : State) : Result := onLink l (fourthByte l check) s

/-- R140: the second CRC byte of a long frame, where the first has come. -/
def lastCrcByte (l : LinkId) (crcLow : Byte) (s : State) : State :=
  match s.links[l].owner, s.links[l].receiver with
  | .client, .footer kind payload (some hi) skip =>
    s.modLink l fun k => k.longArrived kind payload (word hi crcLow) skip
  | _, _ => s

/-- LONG_FRAME_RECEIVED (R140). It does not take place unless the first CRC byte has come (log 1). -/
def execLongFrameReceived (l : LinkId) (crcLow : Byte) (s : State) : Result := onLink l (lastCrcByte l crcLow) s

/-- R142: the inter-byte timeout of a link. -/
def Link.timeout (k : Link) : Link :=
  match k.receiver with
  | .header _ => k.discardWith .frameTimeout .idle
  | .payload _ _ _ skip => k.abandonWith skip .frameTimeout .idle
  | .footer _ _ _ skip => k.abandonWith skip .frameTimeout .idle
  | .idle => k
  | .discard => k
  | .awaitMark _ => k

/-- FRAME_TIMEOUT (R142). IDLE and DISCARD have no inter-byte timeout (log 1). -/
def execFrameTimeout (l : LinkId) (s : State) : Result := onLink l (fun s => s.modLink l Link.timeout) s

/-- R143: a framing error taken while the client owns the line. -/
def Link.framingError (k : Link) : Link :=
  match k.receiver with
  | .idle => k.discardWith .framing .discard
  | .header _ => k.discardWith .framing .discard
  | .payload _ _ _ skip => k.abandonWith skip .framing .discard
  | .footer _ _ _ skip => k.abandonWith skip .framing .discard
  | .discard => k
  | .awaitMark _ => k

/-- R151: a character from elsewhere while the AM48 owns the line. -/
def recordContention (l : LinkId) (s : State) : State := s.modLink l fun k => k.record .contention

/-- R138, R143, R151: a framing error; while the AM48 owns the line it is contention (log 14). -/
def framingEvent (l : LinkId) (s : State) : State :=
  match s.links[l].owner with
  | .client => s.modLink l Link.framingError
  | .am48 => recordContention l s

/-- FRAMING (R143). -/
def execFraming (l : LinkId) (s : State) : Result := onLink l (framingEvent l) s

/-- R143: the end of the idle gap that DISCARD waits for. -/
def Link.endDiscard (k : Link) : Link :=
  match k.receiver with
  | .discard => { k with receiver := .idle }
  | .idle => k
  | .header _ => k
  | .payload _ _ _ _ => k
  | .footer _ _ _ _ => k
  | .awaitMark _ => k

/-- DISCARD_END (R143). -/
def execDiscardEnd (l : LinkId) (s : State) : Result := onLink l (fun s => s.modLink l Link.endDiscard) s

/-- R151: contention, which only the AM48's ownership of the line gives. -/
def contentionEvent (l : LinkId) (s : State) : State :=
  match s.links[l].owner with
  | .client => s
  | .am48 => recordContention l s

/-- CONTENTION (R151). While the client owns the line there is none (log 1). -/
def execContention (l : LinkId) (s : State) : Result := onLink l (contentionEvent l) s

/-! ## Frames of the client, as one command -/

/-- TURN (R144, R146): the four bytes of a TURN frame arrive (log 7). -/
def execTurn (l : LinkId) (p0 p1 : Byte) (s : State) : Result := onLink l (takeBytes l (shortFrame turnKind p0 p1)) s

/-- NOOP (R144): the four bytes of a NOOP frame arrive (log 7). -/
def execNoop (l : LinkId) (p0 p1 : Byte) (s : State) : Result := onLink l (takeBytes l (shortFrame noopKind p0 p1)) s

/-- FILL (R144): the bytes of a FILL frame arrive (log 7). -/
def execFill (l : LinkId) (payload : List Byte) (s : State) : Result :=
  onLink l (takeBytes l (longFrame fillKind payload)) s

/-! ## LINK STATUS -/

/-- R155: the status that a link would report now. -/
def statusNow (s : State) (l : LinkId) : StatusReported :=
  { accepted := s.links[l].accepted, corrected := s.links[l].corrected, discarded := s.links[l].discarded,
    breaks := s.links[l].breaks, notice := s.views[l].leaseLost }

/-- R155, 11.5: the payload of a LINK STATUS DATA. -/
def statusPayload (holder : Option LinkId) (r : StatusReported) : List Byte :=
  be16 (wordOf r.accepted) ++ be16 (wordOf r.corrected) ++ be16 (wordOf r.discarded) ++
    [byteOf r.breaks, byteOf (holderCode holder), byteOf (bitOf r.notice)]

/-- R155: a LINK STATUS is executed on link `l`. -/
def runLinkStatus (l : LinkId) (s : State) : State :=
  send l (longReply .linkStatusData (statusPayload s.lease.holder (statusNow s l)))
    (s.modLink l fun k => { k with status := some (statusNow s l) })

/-- R155: the counters are reduced by what was reported. -/
def Link.takeStatus (r : StatusReported) (k : Link) : Link :=
  { k with
    accepted := k.accepted - r.accepted
    corrected := k.corrected - r.corrected
    discarded := k.discarded - r.discarded
    breaks := k.breaks - r.breaks
    status := none }

/-- R61: the notice at the delivery of a LINK STATUS DATA. -/
def View.noticeTold (notice : Bool) (v : View) : View :=
  { v with leaseLost := if notice then v.lostAgain else v.leaseLost, lostAgain := false }

/-- R61, R155: the delivery of a LINK STATUS DATA. -/
def deliverStatus (l : LinkId) (s : State) : State :=
  match s.links[l].status with
  | none => s
  | some r => attendAll ((s.modLink l (Link.takeStatus r)).modView l (View.noticeTold r.notice))

/-- R61, R155: the abort of a LINK STATUS DATA. -/
def abortStatus (l : LinkId) (s : State) : State :=
  (s.modLink l fun k => { k with status := none }).modView l fun v => { v with lostAgain := false }

/-! ## The turn -/

/-- R147: a request is executed by the block that owns the state concerned. -/
def runRequest (l : LinkId) (r : Request) (s : State) : State :=
  match r with
  | .motionRead mask options => runMotionRead l mask options s
  | .captureRead n => runCaptureRead l n s
  | .linkStatus => runLinkStatus l s
  | .viewReset => runViewReset l s
  | .leaseAcquire => runLeaseAcquire l s
  | .leaseRelease => runLeaseRelease l s
  | .settingRead payload => runSettingRead l payload s
  | .settingWrite payload => runSettingWrite l payload s
  | .preset payload => runPreset l payload s

/-- R122, R147: the request at the head leaves the queue and is executed; the lease reload is the last step. -/
def execute (l : LinkId) (r : Request) (rest : List Request) (s : State) : State :=
  renewLease l (runRequest l r (s.modLink l fun k => { k with queue := rest }))

/-- R149, 11.5: the ERROR REPORT of a summary. -/
def errorReport (summary : BitVec 11) : TxFrame :=
  let w : Word := summary.setWidth 16
  shortReply .errorReport (w.extractLsb' 8 8) (w.extractLsb' 0 8)

/-- R150: the AM48's TURN is composed. -/
def composeTurn (l : LinkId) (s : State) : State := send l (shortReply .turn 0 0) s

/-- R149, R150: what follows the last reply of a turn. -/
def composeClosing (l : LinkId) (s : State) : State :=
  if s.links[l].summary = 0 then composeTurn l s
  else send l (errorReport s.links[l].summary) (s.modLink l fun k => { k with summary := 0 })

/-- R146: the next frame of the turn is composed. -/
def composeNext (l : LinkId) (s : State) : State :=
  match s.links[l].queue with
  | r :: rest => execute l r rest s
  | [] => composeClosing l s

/-- R148: the owning block reduces what a delivered frame reported. -/
def deliverFrame (l : LinkId) (kind : ReplyKind) (s : State) : State :=
  match kind with
  | .motionReport => deliverMotion l s
  | .captureReport => deliverCapture l s
  | .linkStatusData => deliverStatus l s
  | .settingData => s
  | .result => s
  | .errorReport => s
  | .turn => s

/-- R150: the owner becomes CLIENT at the delivery of the AM48's TURN. A character that began before this delivery is
told apart by its sender: it is CONTENTION before this event, and never a RECEIVED_BYTE after it (log 32). -/
def endTurn (l : LinkId) (s : State) : State :=
  s.modLink l fun k => { k with owner := .client, tx := .idle, receiver := .idle }

/-- R148 to R150: what a delivery leads to. -/
def afterDelivery (l : LinkId) (kind : ReplyKind) (s : State) : State :=
  match kind with
  | .turn => endTurn l s
  | .errorReport => composeTurn l s
  | .motionReport => composeNext l s
  | .captureReport => composeNext l s
  | .linkStatusData => composeNext l s
  | .settingData => composeNext l s
  | .result => composeNext l s

/-- R146: the end of GUARD. -/
def guardEndEvent (l : LinkId) (s : State) : State :=
  match s.links[l].tx with
  | .guard => composeNext l s
  | .idle => s
  | .sending _ => s

/-- GUARD_END (R146 to R150). It does not take place unless the transmitter is in GUARD (log 1). -/
def execGuardEnd (l : LinkId) (s : State) : Result := onLink l (guardEndEvent l) s

/-- R148: the delivery of the frame in transmission, and the composition of the next, in one event (R146, R147). What
was still to send of the frame has been sent by then (log 12). A break taken just after the delivery it falls together
with is `deliveredOnly`, in the event of that break (log 31). -/
def deliveryEvent (l : LinkId) (s : State) : State :=
  match s.links[l].tx with
  | .sending f => afterDelivery l f.kind (deliverFrame l f.kind s)
  | .idle => s
  | .guard => s

/-- REPLY_DELIVERY (R148 to R150). It does not take place unless a frame is being sent (log 1). -/
def execReplyDelivery (l : LinkId) (s : State) : Result := onLink l (deliveryEvent l) s

/-! ## Break -/

/-- R152: the owner of an aborted frame acts on the abort. -/
def abortFrame (l : LinkId) (kind : ReplyKind) (s : State) : State :=
  match kind with
  | .motionReport => abortMotion l s
  | .captureReport => abortCapture l s
  | .linkStatusData => abortStatus l s
  | .settingData => s
  | .result => s
  | .errorReport => s
  | .turn => s

/-- R152: the frame in transmission, if there is one, is aborted. -/
def abortTransmission (l : LinkId) (s : State) : State :=
  match s.links[l].tx with
  | .sending f => abortFrame l f.kind s
  | .idle => s
  | .guard => s

/-- R152: the link controller's own part of a break. -/
def Link.broken (k : Link) : Link :=
  { k.countBreak with
    owner := .client, receiver := .awaitMark true, queue := [], summary := LinkCondition.lineBreak.bit, tx := .idle }

/-- R85, R119, R148: the frame in transmission is delivered, and no frame of the turn follows it, because a break that
falls together with the delivery is taken next. Nothing is delivered where no frame is being sent. -/
def deliveredOnly (l : LinkId) (s : State) : State :=
  match s.links[l].tx with
  | .sending f => (deliverFrame l f.kind s).modLink l fun k => { k with tx := .idle }
  | .idle => s
  | .guard => s

/-- R148: what a break finds, by its order with the delivery. -/
def beforeBreak (l : LinkId) (order : BreakOrder) (s : State) : State :=
  match order with
  | .alone => s
  | .afterDelivery => deliveredOnly l s

/-- R138, R152: a break is taken; the abort comes before the loss of the lease (R61). -/
def breakTaken (l : LinkId) (s : State) : State :=
  let s1 := (abortTransmission l s).modLink l Link.broken
  attendAll (if s1.lease.holder = some l then loseLease s1 else s1)

/-- R138: one stretch of space gives one break. -/
def breakEvent (l : LinkId) (order : BreakOrder) (s : State) : State :=
  match s.links[l].receiver with
  | .awaitMark true => s
  | .awaitMark false => breakTaken l (beforeBreak l order s)
  | .idle => breakTaken l (beforeBreak l order s)
  | .header _ => breakTaken l (beforeBreak l order s)
  | .payload _ _ _ _ => breakTaken l (beforeBreak l order s)
  | .footer _ _ _ _ => breakTaken l (beforeBreak l order s)
  | .discard => breakTaken l (beforeBreak l order s)

/-- BREAK (R148, R152). -/
def execLineBreak (b : LineBreak) (s : State) : Result := onLink b.link (breakEvent b.link b.order) s

/-- R152, R160: the line returns to mark and the receiver enters IDLE. -/
def Link.markReturned (k : Link) : Link :=
  match k.receiver with
  | .awaitMark _ => { k with receiver := .idle }
  | .idle => k
  | .header _ => k
  | .payload _ _ _ _ => k
  | .footer _ _ _ _ => k
  | .discard => k

/-- RETURN_TO_MARK (R152). -/
def execReturnToMark (l : LinkId) (s : State) : Result := onLink l (fun s => s.modLink l Link.markReturned) s

end Sys2Proof.Machine
end

