-- ==== Sys2Proof/Machine/Requests.lean ====
section
/-! DEFINITION. The commands that name the execution of a request (R147), and those that name an accepted SETTING WRITE
by what it changes (R133). Each takes place at the composition at which that request is executed (log 6, log 10). -/

namespace Sys2Proof.Machine

/-- R146 to R148: the state at a composition of a reply on link `l`: at the end of GUARD, or at the delivery of the
reply before it. There is none elsewhere, nor after an ERROR REPORT or a TURN. -/
def compositionState (l : LinkId) (s : State) : Option State :=
  match s.links[l].tx with
  | .idle => none
  | .guard => some s
  | .sending f =>
    match f.kind with
    | .turn => none
    | .errorReport => none
    | .motionReport => some (deliverFrame l .motionReport s)
    | .captureReport => some (deliverFrame l .captureReport s)
    | .linkStatusData => some (deliverFrame l .linkStatusData s)
    | .settingData => some (deliverFrame l .settingData s)
    | .result => some (deliverFrame l .result s)

/-- R147: the composition takes place if the request at the head of the queue is the one named. -/
def composeIf (l : LinkId) (named : State → Request → Bool) (s : State) : State :=
  match compositionState l s with
  | none => s
  | some s1 =>
    match s1.links[l].queue with
    | [] => s
    | r :: rest => if named s1 r then execute l r rest s1 else s

/-- MOTION_READ (R71 to R78): the MOTION READ at the head of the queue is executed. -/
def execMotionRead (l : LinkId) (mask options : Byte) (s : State) : Result :=
  onLink l (composeIf l fun _ r => decide (r = .motionRead mask options)) s

/-- CAPTURE_READ (R114 to R116): the CAPTURE READ at the head of the queue is executed. -/
def execCaptureRead (l : LinkId) (n : Byte) (s : State) : Result :=
  onLink l (composeIf l fun _ r => decide (r = .captureRead n)) s

/-- LINK_STATUS (R155): the LINK STATUS at the head of the queue is executed. -/
def execLinkStatus (l : LinkId) (s : State) : Result := onLink l (composeIf l fun _ r => decide (r = .linkStatus)) s

/-- VIEW_RESET (R59): the VIEW RESET at the head of the queue is executed. -/
def execViewReset (l : LinkId) (s : State) : Result := onLink l (composeIf l fun _ r => decide (r = .viewReset)) s

/-- LEASE_ACQUIRE (R123): the LEASE ACQUIRE at the head of the queue is executed. -/
def execLeaseAcquire (l : LinkId) (s : State) : Result :=
  onLink l (composeIf l fun _ r => decide (r = .leaseAcquire)) s

/-- LEASE_RELEASE (R124): the LEASE RELEASE at the head of the queue is executed. -/
def execLeaseRelease (l : LinkId) (s : State) : Result :=
  onLink l (composeIf l fun _ r => decide (r = .leaseRelease)) s

/-- SETTING_READ (R130): the SETTING READ at the head of the queue is executed. -/
def execSettingRead (l : LinkId) (payload : List Byte) (s : State) : Result :=
  onLink l (composeIf l fun _ r => decide (r = .settingRead payload)) s

/-- SETTING_WRITE (R131): the SETTING WRITE at the head of the queue is executed, whatever it changes and whether its
checks pass. -/
def execSettingWrite (l : LinkId) (payload : List Byte) (s : State) : Result :=
  onLink l (composeIf l fun _ r => decide (r = .settingWrite payload)) s

/-- PRESET (R134): the PRESET at the head of the queue is executed. -/
def execPreset (l : LinkId) (payload : List Byte) (s : State) : Result :=
  onLink l (composeIf l fun _ r => decide (r = .preset payload)) s

/-! ## Accepted writes, by what they change -/

/-- Whether a request is a SETTING WRITE that its checks accept and that makes the change named. -/
def acceptedWrite (l : LinkId) (change : State → AcceptedWrite → Bool) (s : State) (r : Request) : Bool :=
  match r with
  | .settingWrite payload =>
    match checkWrite s l payload with
    | .ok w => change s w
    | .error _ => false
  | .motionRead _ _ => false
  | .captureRead _ => false
  | .linkStatus => false
  | .viewReset => false
  | .leaseAcquire => false
  | .leaseRelease => false
  | .settingRead _ => false
  | .preset _ => false

/-- R4: a write that changes channel `c`'s enable from 0 to 1. -/
def enablesChannel (c : ChannelId) (s : State) (w : AcceptedWrite) : Bool :=
  !s.settings.channels[c].enable && w.left.shared.channels[c].enable

/-- R5: a write that changes channel `c`'s enable from 1 to 0. -/
def disablesChannel (c : ChannelId) (s : State) (w : AcceptedWrite) : Bool :=
  s.settings.channels[c].enable && !w.left.shared.channels[c].enable

/-- R47: a write of channel `c`'s forced tier that sets it to `tier`. -/
def setsForcedTier (c : ChannelId) (tier : Tier) (_ : State) (w : AcceptedWrite) : Bool :=
  wrote w.run (.channel c .forcedTier) && decide (w.left.shared.channels[c].forcedTier = some tier)

/-- R48: a write that changes channel `c`'s forced tier to NONE. -/
def releasesForcedTier (c : ChannelId) (s : State) (w : AcceptedWrite) : Bool :=
  wrote w.run (.channel c .forcedTier) && s.settings.channels[c].forcedTier.isSome &&
    decide (w.left.shared.channels[c].forcedTier = none)

/-- R90: a write that changes trigger `t`'s enable from 0 to 1. -/
def enablesTrigger (t : TriggerId) (s : State) (w : AcceptedWrite) : Bool :=
  !s.settings.triggers[t].enable && w.left.shared.triggers[t].enable

/-- R90: a write that changes trigger `t`'s enable from 1 to 0. -/
def disablesTrigger (t : TriggerId) (s : State) (w : AcceptedWrite) : Bool :=
  s.settings.triggers[t].enable && !w.left.shared.triggers[t].enable

/-- R57: a write that changes the subscription mask to `mask`. -/
def changesMask (l : LinkId) (mask : Byte) (s : State) (w : AcceptedWrite) : Bool :=
  decide (s.views[l].settings.mask ≠ mask) && decide (w.left.own.mask = mask)

/-- R110: a placement claim that leaves this base and length. -/
def placesRing (base length : Nat) (_ : State) (w : AcceptedWrite) : Bool :=
  touchesRing w.run && decide (w.left.own.ringBase = base) && decide (w.left.own.ringLength = length)

/-- R69: a write of attention settings that leaves this mode, polarity and these sources. -/
def writesAttention (mode : AttentionMode) (polarity : Polarity) (sources : BitVec 4) (_ : State)
    (w : AcceptedWrite) : Bool :=
  (wrote w.run (.own .attentionMode) || wrote w.run (.own .polarity) || wrote w.run (.own .sources)) &&
    decide (w.left.own.attentionMode = mode) && decide (w.left.own.polarity = polarity) &&
    decide (w.left.own.sources = sources)

/-- CHANNEL_ENABLE (R4). -/
def execChannelEnable (l : LinkId) (c : ChannelId) (s : State) : Result :=
  onLink l (composeIf l (acceptedWrite l (enablesChannel c))) s

/-- CHANNEL_DISABLE (R5). -/
def execChannelDisable (l : LinkId) (c : ChannelId) (s : State) : Result :=
  onLink l (composeIf l (acceptedWrite l (disablesChannel c))) s

/-- FORCED_TIER_SET (R47). -/
def execForcedTierSet (l : LinkId) (c : ChannelId) (tier : Tier) (s : State) : Result :=
  onLink l (composeIf l (acceptedWrite l (setsForcedTier c tier))) s

/-- FORCED_TIER_RELEASE (R48). -/
def execForcedTierRelease (l : LinkId) (c : ChannelId) (s : State) : Result :=
  onLink l (composeIf l (acceptedWrite l (releasesForcedTier c))) s

/-- TRIGGER_ENABLE (R90). -/
def execTriggerEnable (l : LinkId) (t : TriggerId) (s : State) : Result :=
  onLink l (composeIf l (acceptedWrite l (enablesTrigger t))) s

/-- TRIGGER_DISABLE (R90). -/
def execTriggerDisable (l : LinkId) (t : TriggerId) (s : State) : Result :=
  onLink l (composeIf l (acceptedWrite l (disablesTrigger t))) s

/-- SUBSCRIPTION_CHANGE (R57). -/
def execSubscriptionChange (l : LinkId) (mask : Byte) (s : State) : Result :=
  onLink l (composeIf l (acceptedWrite l (changesMask l mask))) s

/-- RING_PLACEMENT (R110). -/
def execRingPlacement (l : LinkId) (base length : Nat) (s : State) : Result :=
  onLink l (composeIf l (acceptedWrite l (placesRing base length))) s

/-- ATTENTION_SETTINGS_WRITE (R69). -/
def execAttentionSettingsWrite (l : LinkId) (mode : AttentionMode) (polarity : Polarity) (sources : BitVec 4)
    (s : State) : Result :=
  onLink l (composeIf l (acceptedWrite l (writesAttention mode polarity sources))) s

end Sys2Proof.Machine
end

