-- ==== Sys2Proof/Machine/SensorBus.lean ====
section
/-! DEFINITION. The sensor bus controller: its lines, the arbiter, the exchange in flight and its outcome (R20 to R37). -/

namespace Sys2Proof.Machine

/-! ## The lines -/

/-- R20: whether the select of channel `c` is low. -/
def selectLow (b : Bus) (c : ChannelId) : Bool :=
  match b.exchange with
  | none => false
  | some e => decide (e.channel = c)

/-- R24, 11.6: the command byte of an exchange kind. -/
def ExchangeKind.command : ExchangeKind → Byte
  | .identify => Config.identifyCommand
  | .motion => Config.motionCommand

/-- R20, R23: the byte that SDO carries while the next byte is clocked; idle it is held low. -/
def sdoByte (b : Bus) : Byte :=
  match b.exchange with
  | none => 0
  | some e =>
    match e.stage with
    | .command => e.kind.command
    | .hunt => 0
    | .block => 0

/-- R21: the levels of SDO at the eight clocks of the next byte. -/
def sdoLevels (b : Bus) : Samples 8 := msbFirst (sdoByte b)

/-- R20, R21: whether SCK is held high because the bus is idle. -/
def sckIdle (b : Bus) : Bool := b.exchange.isNone

/-! ## The arbiter -/

/-- R32: whether some channel has its priority flag set. -/
def prioritySet (s : State) (c : ChannelId) : Bool := s.polls[c].priority

/-- R32: whether a channel has its due flag set. -/
def dueSet (s : State) (c : ChannelId) : Bool := s.polls[c].due

/-- R35: the channels in cyclic order after the round-robin pointer, the pointer itself last. -/
def cyclicFrom (p : ChannelId) : List ChannelId := [p + 1, p + 2, p + 3, p + 4, p + 5, p + 6, p + 7, p]

/-- R35: the first channel of a set in cyclic order after the pointer. -/
def searchFrom (p : ChannelId) (member : ChannelId → Bool) : Option ChannelId := (cyclicFrom p).find? member

/-- R34: whether the priority set is used. -/
def usesPriority (s : State) : Bool :=
  allChannels.any (prioritySet s) && !(allChannels.any (dueSet s) && decide (Config.streakMax ≤ s.bus.streak))

/-- R34, R35: the channel to be granted, if a set is not empty. -/
def arbiterChoice (s : State) : Option ChannelId :=
  if usesPriority s then searchFrom s.bus.pointer (prioritySet s) else searchFrom s.bus.pointer (dueSet s)

/-- R36: the priority-streak counter after a grant to `c`. -/
def streakAfter (s : State) (c : ChannelId) : Nat :=
  if usesPriority s && allChannels.any (fun d => decide (d ≠ c) && dueSet s d) then
    satInc Config.streakMax s.bus.streak
  else 0

/-- R24: the exchange kind that a channel's state calls for. An OFF channel is never granted. -/
def kindFor : ChannelState → Option ExchangeKind
  | .off => none
  | .identify => some .identify
  | .active => some .motion
  | .faulted => some .identify

/-- R24, R35, R36, R41, R96: the bus is granted to channel `c` for an exchange. -/
def grantTo (c : ChannelId) (kind : ExchangeKind) (s : State) : State :=
  let b : Bus :=
    { exchange := some { channel := c, kind := kind, discard := false, stage := .command, fillers := 0, block := [] }
      pointer := c
      streak := streakAfter s c }
  grantEntries c (({ s with bus := b } : State).modPoll c Poll.granted)

/-- R33: a grant is made when the bus is IDLE and a set is not empty. -/
def grantEvent (s : State) : State :=
  match s.bus.exchange, arbiterChoice s with
  | none, some c =>
    match kindFor s.channels[c].state with
    | some kind => grantTo c kind s
    | none => s
  | _, _ => s

/-- GRANT (R24, R33 to R37). With the bus busy or both sets empty no grant is made (R33, log 1). -/
def execGrant (s : State) : Result := onRunning grantEvent s

/-! ## Bytes on the wire -/

/-- R26: the outcome of an identify block. -/
def identifyOutcome (expected identity complement : Byte) : ExchangeOutcome :=
  if complement ≠ ~~~identity then .failed .idCheck
  else if expected ≠ 0 ∧ identity ≠ expected then .failed .idMismatch
  else .identified

/-- R28: a 12-bit delta from its high nibble and low byte. -/
def delta (high : BitVec 4) (low : Byte) : BitVec 12 := high ++ low

/-- R27, R28, 11.6: the outcome of a motion block. -/
def motionOutcome (status alongLow acrossLow nibbles quality complement : Byte) : ExchangeOutcome :=
  if complement ≠ ~~~status then .failed .blockCheck
  else if status.getLsbD 6 then .failed .sensorFault
  else if status.getLsbD 7 then
    .moved (delta (nibbles.extractLsb' 4 4) alongLow) (delta (nibbles.extractLsb' 0 4) acrossLow) quality
  else .moved 0 0 quality

/-- R26, R27: the outcome of a whole block, or none while bytes are still to come. -/
def blockOutcome (expected : Byte) : ExchangeKind → List Byte → Option ExchangeOutcome
  | .identify, [i, c] => some (identifyOutcome expected i c)
  | .motion, [st, al, ac, hn, q, cs] => some (motionOutcome st al ac hn q cs)
  | _, _ => none

/-- Where an exchange stands after some bytes. -/
inductive Clocked where
  | inFlight (e : Exchange)
  | completed (e : Exchange) (o : ExchangeOutcome)
deriving DecidableEq, Repr

/-- R23 to R27: one byte is clocked. `expected` is the channel's expected identity at this byte. -/
def clockByte (expected : Byte) (e : Exchange) (b : Byte) : Clocked :=
  match e.stage with
  | .command => .inFlight { e with stage := .hunt }
  | .hunt =>
    if b = Config.syncByte then .inFlight { e with stage := .block }
    else if Config.fillerMax ≤ e.fillers + 1 then .completed { e with fillers := e.fillers + 1 } (.failed .noResponse)
    else .inFlight { e with fillers := e.fillers + 1 }
  | .block =>
    match blockOutcome expected e.kind (e.block ++ [b]) with
    | some o => .completed { e with block := e.block ++ [b] } o
    | none => .inFlight { e with block := e.block ++ [b] }

/-- R23 to R27: bytes are clocked until the exchange completes or the bytes end. -/
def clockBytes (expected : Byte) (e : Exchange) : List Byte → Clocked
  | [] => .inFlight e
  | b :: bs =>
    match clockByte expected e b with
    | .inFlight e' => clockBytes expected e' bs
    | .completed e' o => .completed e' o

/-- R21: the bytes that the levels sampled on SDI make. -/
def bytesOnSdi (sdi : List (Samples 8)) : List Byte := sdi.map msbFirst

/-- R29: the bus goes IDLE, the record is gone, and the completion is handed to the channel unit. -/
def completeExchange (e : Exchange) (o : ExchangeOutcome) (s : State) : State :=
  attendAll (applyCompletion e o { s with bus := { s.bus with exchange := none } })

/-- R25 to R29: the bytes read on SDI carry the exchange on, to its completion if they reach it. -/
def exchangeEvent (sdi : List (Samples 8)) (s : State) : State :=
  match s.bus.exchange with
  | none => s
  | some e =>
    match clockBytes s.settings.channels[e.channel].expectedId e (bytesOnSdi sdi) with
    | .inFlight e' => { s with bus := { s.bus with exchange := some e' } }
    | .completed e' o => completeExchange e' o s

/-- EXCHANGE_COMPLETION (R29). With the bus IDLE, SDI is not read (R20, log 1). Bytes that stop short of the completing
byte leave the exchange in flight (log 9). -/
def execExchangeCompletion (sdi : List (Samples 8)) (s : State) : Result := onRunning (exchangeEvent sdi) s

end Sys2Proof.Machine
end

