-- ==== Sys2Proof/Machine/TimeBase.lean ====
section
/-! DEFINITION. The time base, reset and strap sampling (R157 to R160). -/

namespace Sys2Proof.Machine

/-! ## Reset -/

/-- RESET (R158): every block returns to its reset values. The queue of commands is not the part's own. -/
def execReset (s : State) : Result := .next { State.reset with pending := s.pending }

/-- R158: RESET goes from low to high. -/
def releaseEvent (s : State) : State :=
  match s.phase with
  | .inReset => { s with phase := .released }
  | .released => s
  | .running => s

/-- RESET_RELEASE (R158). -/
def execResetRelease (s : State) : Result := .next (releaseEvent s)

/-! ## Strap sampling -/

/-- R159: the straps that the levels of ATN0 to ATN3 give. -/
def strapsOf (atn : BitVec 4) : Straps :=
  { rate := atn.extractLsb' 0 2, twoLinks := atn.getLsbD 2, autostart := atn.getLsbD 3 }

/-- R137: the bit rate that a rate code selects, in bit/s. -/
def bitRate (rate : BitVec 2) : Nat := 115200 * 2 ^ rate.toNat

/-- R106: the first placement of a view, as base and length. -/
def firstPlacement (twoLinks : Bool) (v : LinkId) : Nat × Nat :=
  if twoLinks then (if v.val < 2 then (8 * v.val, 8) else (0, 0)) else (4 * v.val, 4)

/-- R65: whether AUTOSTART subscribes view `v`: it does on an enabled link. -/
def autoSubscribes (st : Straps) (v : LinkId) : Bool := st.autostart && !(st.twoLinks && decide (2 ≤ v.val))

/-- R65, R106: the settings of view `v` after strap sampling. -/
def firstViewSettings (st : Straps) (v : LinkId) (vs : ViewSettings) : ViewSettings :=
  { vs with
    mask := if autoSubscribes st v then 0xFF else vs.mask
    attentionMode := if autoSubscribes st v then .level else vs.attentionMode
    ringBase := (firstPlacement st.twoLinks v).1
    ringLength := (firstPlacement st.twoLinks v).2 }

/-- R65, R106: view `v` after strap sampling. -/
def firstView (st : Straps) (v : LinkId) (w : View) : View :=
  { w with
    settings := firstViewSettings st v w.settings
    accounts := if autoSubscribes st v then Vector.replicate 8 (some Account.created) else w.accounts }

/-- R136, R156, R160: link `l` after strap sampling; an enabled link whose line is at space waits for mark. -/
def firstLink (st : Straps) (l : LinkId) (mark : Bool) (k : Link) : Link :=
  if mark || (st.twoLinks && decide (2 ≤ l.val)) then k else { k with receiver := .awaitMark false }

/-- R18: a channel's settings after strap sampling. -/
def firstChannelSettings (st : Straps) (cs : ChannelSettings) : ChannelSettings :=
  if st.autostart then { cs with enable := true } else cs

/-- R18, R45: a channel's record after strap sampling. -/
def firstChannel (st : Straps) (ch : Channel) : Channel := if st.autostart then ch.enabled else ch

/-- R45: a channel's scheduler record after strap sampling. -/
def firstPoll (st : Straps) (p : Poll) : Poll := if st.autostart then { p with due := true } else p

/-- R159: the straps take effect, each block with its first values. -/
def sampleStraps (st : Straps) (ld : BitVec 4) (s : State) : State :=
  attendAll
    { s with
      phase := .running
      straps := st
      settings := { s.settings with channels := tab8 fun c => firstChannelSettings st s.settings.channels[c] }
      channels := tab8 fun c => firstChannel st s.channels[c]
      polls := tab8 fun c => firstPoll st s.polls[c]
      views := tab4 fun v => firstView st v s.views[v]
      links := tab4 fun l => firstLink st l (ld.getLsbD l.val) s.links[l] }

/-- R157 to R159: the first tick after release is strap sampling. -/
def strapEvent (atn ld : BitVec 4) (s : State) : State :=
  match s.phase with
  | .released => sampleStraps (strapsOf atn) ld { s with tickCount := s.tickCount + 1 }
  | .inReset => s
  | .running => s

/-- STRAP_SAMPLING (R159). It takes place once, at the first tick after release (log 5). -/
def execStrapSampling (atn ld : BitVec 4) (s : State) : Result := .next (strapEvent atn ld s)

/-! ## Ticks -/

/-- R157: the events of the tick before that have not been taken as commands of their own are taken (log 3). -/
def settleTick (s : State) : State :=
  let s1 := leaseExpiryEvent (allChannels.foldl (fun s c => dueExpiryEvent c s) s)
  allLinks.foldl (fun s v => pulseTickEvent v s) (allTriggers.foldl (fun s t => confirmEvent t s) s1)

/-- R40: a channel's scheduler record at a tick. -/
def Poll.ticked (p : Poll) : Poll := { p with countdown := p.countdown.tick }

/-- R68: a view's pulse timer is owed a tick in PULSE mode, the only mode in which it moves. -/
def Attention.ticked (mode : AttentionMode) (a : Attention) : Attention :=
  { a with tickOwed := decide (mode = .pulse) }

/-- R157: the counter rises, every countdown decreases, and every watched trigger line is sampled. -/
def advance (trg : BitVec 4) (s : State) : State :=
  { s with
    tickCount := s.tickCount + 1
    polls := tab8 fun c => s.polls[c].ticked
    lease := { s.lease with countdown := s.lease.countdown.tick }
    attention := tab4 fun v => s.attention[v].ticked s.views[v].settings.attentionMode
    triggers := tab4 fun t =>
      s.triggers[t].sample s.settings.triggers[t].filter (levelOf (trg.getLsbD t.val)) }

/-- R157: one tick. -/
def tickEvent (trg : BitVec 4) (s : State) : State := advance trg (settleTick s)

/-- TICK (R157). No tick occurs while RESET is low, and the first after release is strap sampling (log 5). -/
def execTick (trg : BitVec 4) (s : State) : Result := onRunning (tickEvent trg) s

end Sys2Proof.Machine
end

