-- ==== Sys2Proof/Machine/Dispatch.lean ====
section
/-! DEFINITION. One arm for each command of the AM48. -/

namespace Sys2Proof.Machine

def exec (i : Instr) (s : State) : Host.Outcome State Fault Refusal :=
  match i with
  | .reset => Sys2Proof.Machine.execReset s
  | .resetRelease => Sys2Proof.Machine.execResetRelease s
  | .strapSampling atn ld => Sys2Proof.Machine.execStrapSampling atn ld s
  | .tick trg => Sys2Proof.Machine.execTick trg s
  | .dueCountdownExpiry c => Sys2Proof.Machine.execDueCountdownExpiry c s
  | .leaseExpiry => Sys2Proof.Machine.execLeaseExpiry s
  | .pulseTimerTick v => Sys2Proof.Machine.execPulseTimerTick v s
  | .triggerEdgeQualified t => Sys2Proof.Machine.execTriggerEdgeQualified t s
  | .grant => Sys2Proof.Machine.execGrant s
  | .exchangeCompletion sdi => Sys2Proof.Machine.execExchangeCompletion sdi s
  | .frameHeaderReceived l check => Sys2Proof.Machine.execFrameHeaderReceived l check s
  | .longFrameReceived l crcLow => Sys2Proof.Machine.execLongFrameReceived l crcLow s
  | .frameTimeout l => Sys2Proof.Machine.execFrameTimeout l s
  | .framing l => Sys2Proof.Machine.execFraming l s
  | .discardEnd l => Sys2Proof.Machine.execDiscardEnd l s
  | .contention l => Sys2Proof.Machine.execContention l s
  | .lineBreak b => Sys2Proof.Machine.execLineBreak b s
  | .turn l p0 p1 => Sys2Proof.Machine.execTurn l p0 p1 s
  | .noop l p0 p1 => Sys2Proof.Machine.execNoop l p0 p1 s
  | .fill l payload => Sys2Proof.Machine.execFill l payload s
  | .guardEnd l => Sys2Proof.Machine.execGuardEnd l s
  | .replyDelivery l => Sys2Proof.Machine.execReplyDelivery l s
  | .motionRead l mask options => Sys2Proof.Machine.execMotionRead l mask options s
  | .captureRead l n => Sys2Proof.Machine.execCaptureRead l n s
  | .linkStatus l => Sys2Proof.Machine.execLinkStatus l s
  | .viewReset l => Sys2Proof.Machine.execViewReset l s
  | .leaseAcquire l => Sys2Proof.Machine.execLeaseAcquire l s
  | .leaseRelease l => Sys2Proof.Machine.execLeaseRelease l s
  | .settingRead l payload => Sys2Proof.Machine.execSettingRead l payload s
  | .settingWrite l payload => Sys2Proof.Machine.execSettingWrite l payload s
  | .preset l payload => Sys2Proof.Machine.execPreset l payload s
  | .channelEnable l c => Sys2Proof.Machine.execChannelEnable l c s
  | .channelDisable l c => Sys2Proof.Machine.execChannelDisable l c s
  | .forcedTierSet l c tier => Sys2Proof.Machine.execForcedTierSet l c tier s
  | .forcedTierRelease l c => Sys2Proof.Machine.execForcedTierRelease l c s
  | .triggerEnable l t => Sys2Proof.Machine.execTriggerEnable l t s
  | .triggerDisable l t => Sys2Proof.Machine.execTriggerDisable l t s
  | .subscriptionChange l mask => Sys2Proof.Machine.execSubscriptionChange l mask s
  | .ringPlacement l base length => Sys2Proof.Machine.execRingPlacement l base length s
  | .attentionSettingsWrite l mode polarity sources => Sys2Proof.Machine.execAttentionSettingsWrite l mode polarity sources s
  | .receivedByte l line => Sys2Proof.Machine.execReceivedByte l line s
  | .returnToMark l => Sys2Proof.Machine.execReturnToMark l s

end Sys2Proof.Machine
end

