-- ==== Sys2Proof/WellFormed.lean ====
section
/-! DEFINITION. Which commands a sender can form. Channel, link and trigger numbers are in range by their types. -/

namespace Sys2Proof

/-- A long frame's payload is 1 to 256 bytes (11.1). -/
def payloadOk (payload : List Byte) : Bool :=
  decide (1 ≤ payload.length) && decide (payload.length ≤ 256)

/-- An exchange never clocks more than this: the command byte, eight fillers and a six-byte block (R21). -/
def exchangeBytesMax : Nat := 15

/-- The checks on operands: payload lengths (11.1, 11.4), a legal ring placement (R108), and the bytes of one
exchange (R21). Every other operand is legal by its type. -/
def Instr.wellFormed : Instr → Bool
  | .exchangeCompletion sdi => decide (1 ≤ sdi.length) && decide (sdi.length ≤ exchangeBytesMax)
  | .fill _ payload => payloadOk payload
  | .settingRead _ payload => payloadOk payload
  | .settingWrite _ payload => payloadOk payload
  | .preset _ payload => payloadOk payload
  | .ringPlacement _ base length => decide (base ≤ 15) && decide (base + length ≤ Config.units)
  | .reset => true
  | .resetRelease => true
  | .strapSampling _ _ => true
  | .tick _ => true
  | .dueCountdownExpiry _ => true
  | .leaseExpiry => true
  | .pulseTimerTick _ => true
  | .triggerEdgeQualified _ => true
  | .grant => true
  | .frameHeaderReceived _ _ => true
  | .longFrameReceived _ _ => true
  | .frameTimeout _ => true
  | .framing _ => true
  | .discardEnd _ => true
  | .contention _ => true
  | .lineBreak _ => true
  | .turn _ _ _ => true
  | .noop _ _ _ => true
  | .guardEnd _ => true
  | .replyDelivery _ => true
  | .motionRead _ _ _ => true
  | .captureRead _ _ => true
  | .linkStatus _ => true
  | .viewReset _ => true
  | .leaseAcquire _ => true
  | .leaseRelease _ => true
  | .channelEnable _ _ => true
  | .channelDisable _ _ => true
  | .forcedTierSet _ _ _ => true
  | .forcedTierRelease _ _ => true
  | .triggerEnable _ _ => true
  | .triggerDisable _ _ => true
  | .subscriptionChange _ _ => true
  | .attentionSettingsWrite _ _ _ _ => true
  | .receivedByte _ _ => true
  | .returnToMark _ => true

end Sys2Proof
end

