-- ==== Sys2Proof/Safety.lean ====
section
/-! DEFINITION. The terms in which claims speak: safe steps, the states in which commands take place, whole frames on
the line, and the invariants of the machine. -/

namespace Sys2Proof.Machine

/-! ## Steps -/

/-- An outcome in which the part goes on. -/
def goesOn : Host.Outcome State Fault Refusal → Bool
  | .next _ => true
  | .fault _ => false
  | .refused _ => false

/-- The link whose line or turn a command belongs to. -/
def linkOf : Instr → Option LinkId
  | .frameHeaderReceived l _ => some l
  | .longFrameReceived l _ => some l
  | .frameTimeout l => some l
  | .framing l => some l
  | .discardEnd l => some l
  | .contention l => some l
  | .lineBreak b => some b.link
  | .turn l _ _ => some l
  | .noop l _ _ => some l
  | .fill l _ => some l
  | .guardEnd l => some l
  | .replyDelivery l => some l
  | .motionRead l _ _ => some l
  | .captureRead l _ => some l
  | .linkStatus l => some l
  | .viewReset l => some l
  | .leaseAcquire l => some l
  | .leaseRelease l => some l
  | .settingRead l _ => some l
  | .settingWrite l _ => some l
  | .preset l _ => some l
  | .channelEnable l _ => some l
  | .channelDisable l _ => some l
  | .forcedTierSet l _ _ => some l
  | .forcedTierRelease l _ => some l
  | .triggerEnable l _ => some l
  | .triggerDisable l _ => some l
  | .subscriptionChange l _ => some l
  | .ringPlacement l _ _ => some l
  | .attentionSettingsWrite l _ _ _ => some l
  | .receivedByte l _ => some l
  | .returnToMark l => some l
  | .reset => none
  | .resetRelease => none
  | .strapSampling _ _ => none
  | .tick _ => none
  | .dueCountdownExpiry _ => none
  | .leaseExpiry => none
  | .pulseTimerTick _ => none
  | .triggerEdgeQualified _ => none
  | .grant => none
  | .exchangeCompletion _ => none

/-! ## When a command takes place -/

/-- `r` is the oldest request of link `l` at a composition of a reply, and `s1` is the state of that composition: `s`
itself at the end of GUARD, or `s` with the reply before it delivered (R146 to R148). -/
def atComposition (l : LinkId) (r : Request) (rest : List Request) (s s1 : State) : Prop :=
  operating s l = true ∧ compositionState l s = some s1 ∧ s1.links[l].queue = r :: rest

/-- The command that executes a request by name. -/
def commandOf (l : LinkId) : Request → Instr
  | .motionRead mask options => .motionRead l mask options
  | .captureRead n => .captureRead l n
  | .linkStatus => .linkStatus l
  | .viewReset => .viewReset l
  | .leaseAcquire => .leaseAcquire l
  | .leaseRelease => .leaseRelease l
  | .settingRead payload => .settingRead l payload
  | .settingWrite payload => .settingWrite l payload
  | .preset payload => .preset l payload

/-- Link `l` works, its client owns the line, and the receiver waits for a frame. -/
def listening (l : LinkId) (s : State) : Prop :=
  operating s l = true ∧ s.links[l].owner = .client ∧ s.links[l].receiver = .idle

/-- Link `l` is sending a frame of this kind. -/
def isSending (l : LinkId) (kind : ReplyKind) (s : State) : Prop :=
  operating s l = true ∧ ∃ f, s.links[l].tx = .sending f ∧ f.kind = kind

/-- No event of the last tick waits for its command (log 3). -/
def nothingOwed (s : State) : Prop :=
  (∀ c : ChannelId, s.polls[c].countdown ≠ .expiring) ∧ s.lease.countdown ≠ .expiring ∧
    (∀ v : LinkId, s.attention[v].tickOwed = false) ∧ ∀ t : TriggerId, s.triggers[t].confirmOwed = false

/-- `s` after the request at the head of link `l`'s queue has left it (R147). -/
def popped (l : LinkId) (rest : List Request) (s : State) : State := s.modLink l fun k => { k with queue := rest }

/-- R107: the number of the slot `k` places behind the head of view `v`'s ring. -/
def slotBehindHead (s : State) (v : LinkId) (k : Nat) : Nat :=
  8 * s.views[v].settings.ringBase + (s.rings[v].head + k) % (8 * s.views[v].settings.ringLength)

/-- R131, R147: an accepted SETTING WRITE stands at the head of link `l`'s queue at a composition of a reply; `s1` is
the state of that composition and `w` the write as its checks pass it. -/
def writeAtHead (l : LinkId) (s s1 : State) (w : AcceptedWrite) : Prop :=
  ∃ payload rest, atComposition l (.settingWrite payload) rest s s1 ∧ checkWrite s1 l payload = .ok w

/-- The kind of the frame that a link is sending, if it is sending one. -/
def Link.kindSent (k : Link) : Option ReplyKind :=
  match k.tx with
  | .sending f => some f.kind
  | .guard => none
  | .idle => none

/-! ## Records handed over -/

/-- R102: what a capture is once it has been looked at for unfilled entries: it stays in flight while it has one. -/
def stillInFlight (c : Option Capture) : Option Capture :=
  match c with
  | none => none
  | some cap => if ∃ e ∈ cap.entries, e.stage.waiting = true then some cap else none

/-- R93, R102: `r` is the finished record of a capture: every entry is filled, and the record carries what they hold. -/
def isRecordOf (cap : Capture) (r : CaptureRecord) : Prop :=
  r.edge = cap.edge ∧ r.overlap = cap.overlap ∧ r.timestamp = cap.timestamp ∧
    cap.entries = r.entries.map fun e => { channel := e.channel, stage := .filled e.status e.along e.across }

/-- R102, R112: `rs` are the finished records of the captures that have no unfilled entry, in ascending trigger
number. -/
def finishedRecords (captures : TriggerId → Option Capture) (rs : List CaptureRecord) : Prop :=
  (rs.map (·.trigger)).Pairwise (· < ·) ∧
    ∀ r, r ∈ rs ↔ ∃ cap, captures r.trigger = some cap ∧ isRecordOf cap r

/-- R112: the records that view `v` selects. -/
def selectedRecords (s : State) (v : LinkId) (rs : List CaptureRecord) : List CaptureRecord :=
  rs.filter fun r => s.views[v].settings.triggerSelection.getLsbD r.trigger.val

/-- R112: of those, the ones that find room in its ring. -/
def keptRecords (s : State) (v : LinkId) (rs : List CaptureRecord) : List CaptureRecord :=
  (selectedRecords s v rs).take (8 * s.views[v].settings.ringLength - s.rings[v].count)

/-- R112: the records `rs` are handed over in `s`, and `t` is what that leaves. In each view that selects them they join
the ring behind its records, as far as there is room, and each one after that counts a drop; every other slot stays. -/
def handsOver (rs : List CaptureRecord) (s t : State) : Prop :=
  (∀ v : LinkId, t.rings[v] =
    { s.rings[v] with
      count := s.rings[v].count + (keptRecords s v rs).length
      dropped := (satInc 255)^[(selectedRecords s v rs).length - (keptRecords s v rs).length] s.rings[v].dropped }) ∧
  (∀ (v : LinkId) (k : Nat) (r : CaptureRecord), (keptRecords s v rs)[k]? = some r →
    readSlot t.slots (slotBehindHead s v (s.rings[v].count + k)) = some r) ∧
  ∀ n : Nat,
    (∀ v : LinkId, ∀ k < (keptRecords s v rs).length, n ≠ slotBehindHead s v (s.rings[v].count + k)) →
    readSlot t.slots n = readSlot s.slots n

/-! ## Frames on the line -/

/-- The bytes of the frame that asks for a request (11.1, 11.4). P0 and P1 bytes that are not examined are 00h. -/
def frameOf : Request → List Byte
  | .motionRead mask options => shortFrame 0x10 mask options
  | .captureRead n => shortFrame 0x11 n 0
  | .linkStatus => shortFrame 0x12 0 0
  | .viewReset => shortFrame 0x13 0 0
  | .leaseAcquire => shortFrame 0x20 0 0
  | .leaseRelease => shortFrame 0x21 0 0
  | .settingRead payload => longFrame 0x40 payload
  | .settingWrite payload => longFrame 0x41 payload
  | .preset payload => longFrame 0x42 payload

/-- A request whose payload a long frame can carry (11.1). -/
def sendable : Request → Bool
  | .settingRead payload => payloadOk payload
  | .settingWrite payload => payloadOk payload
  | .preset payload => payloadOk payload
  | .motionRead _ _ => true
  | .captureRead _ => true
  | .linkStatus => true
  | .viewReset => true
  | .leaseAcquire => true
  | .leaseRelease => true

/-- RECEIVED_BYTE, once for the character of each byte. -/
def receiveAll (l : LinkId) : List Byte → State → Result
  | [], s => .next s
  | b :: bs, s =>
    match exec (.receivedByte l (character b)) s with
    | .next t => receiveAll l bs t
    | .fault x => .fault x
    | .refused x => .refused x

/-! ## Invariants -/

/-- R145: a link's request queue never holds more than 4 requests. -/
def queuesBounded (s : State) : Prop := ∀ l : LinkId, s.links[l].queue.length ≤ Config.queueMax

/-- R136, R145, R146, R151: the request queue is bounded; the client owns the line exactly while the transmitter is
IDLE, and so until strap sampling (R159); while the AM48 owns it no frame is being received; the bytes still to send are
the end of the frame composed; and a report or status is in flight exactly while the frame that carries it is being sent
(R56, R117, R155). -/
def linksConsistent (s : State) : Prop :=
  queuesBounded s ∧ (s.phase ≠ .running → ∀ l : LinkId, s.links[l].owner = .client) ∧ ∀ l : LinkId,
    (s.links[l].owner = .client ↔ s.links[l].tx = .idle) ∧
    (s.links[l].owner = .am48 → s.links[l].receiver = .idle) ∧
    (∀ f, s.links[l].tx = .sending f → f.left <:+ f.bytes) ∧
    (s.views[l].report.isSome = true ↔ s.links[l].kindSent = some .motionReport) ∧
    (s.rings[l].report.isSome = true ↔ s.links[l].kindSent = some .captureReport) ∧
    (s.links[l].status.isSome = true ↔ s.links[l].kindSent = some .linkStatusData)

/-- R93, R101: between 1 and 4 entries, in ascending channel order. -/
def entriesOk (channels : List ChannelId) : Prop :=
  1 ≤ channels.length ∧ channels.length ≤ 4 ∧ channels.Pairwise (· < ·)

/-- R106, R107: each ring holds at most its slots' number of records and has its head in the ring (at 0 in a ring of
length 0); the slots of its records, from the head on, hold a record each, and no other slot of the memory does. -/
def ringsHoldTheirRecords (s : State) : Prop :=
  (∀ v : LinkId,
    s.rings[v].count ≤ 8 * s.views[v].settings.ringLength ∧
    (s.rings[v].head < 8 * s.views[v].settings.ringLength ∨ s.rings[v].head = 0) ∧
    ∀ k < s.rings[v].count, (readSlot s.slots (slotBehindHead s v k)).isSome = true) ∧
  ∀ n : Nat, (∀ v : LinkId, ∀ k < s.rings[v].count, n ≠ slotBehindHead s v k) → readSlot s.slots n = none

/-- R106, R117: a dropped count is at most 255, and a report in flight has reported no more records than the ring holds
and no more drops than the count shows. -/
def reportsWithinRings (s : State) : Prop :=
  ∀ v : LinkId, s.rings[v].dropped ≤ 255 ∧
    ∀ rep, s.rings[v].report = some rep → rep.records ≤ s.rings[v].count ∧ rep.dropped ≤ s.rings[v].dropped

/-- R89, R90, R101, R102: a trigger is watched exactly while its enable setting is 1; a capture in flight, and every
record in the memory, has 1 to 4 entries in ascending channel order; and a capture in flight has an unfilled entry. -/
def capturesWellFormed (s : State) : Prop :=
  (∀ i : TriggerId,
    (s.triggers[i].watch = .off ↔ s.settings.triggers[i].enable = false) ∧
    (s.triggers[i].watch = .off → s.triggers[i].confirmOwed = false) ∧
    ∀ cap, s.triggers[i].capture = some cap →
      entriesOk (cap.entries.map (·.channel)) ∧ ∃ e ∈ cap.entries, e.stage.waiting = true) ∧
  ∀ (n : Nat) (r : CaptureRecord), readSlot s.slots n = some r → entriesOk (r.entries.map (·.channel))

/-- R101, R106, R107, R117: the capture memory and the captures in flight; before strap sampling every ring is empty. -/
def captureMemoryConsistent (s : State) : Prop :=
  ringsHoldTheirRecords s ∧ reportsWithinRings s ∧ capturesWellFormed s ∧
    (s.phase ≠ .running → ∀ v : LinkId, s.rings[v].head = 0 ∧ s.rings[v].count = 0)

/-- R52: a view holds an account for each channel of its mask and for no other. -/
def accountsMatchMask (s : State) : Prop :=
  ∀ v : LinkId, ∀ c : ChannelId, s.views[v].accounts[c].isSome = s.views[v].subscribed c

/-- R108: every placement is in range, and no slot belongs to the rings of two views. -/
def ringsDisjoint (s : State) : Prop :=
  (∀ v : LinkId, placementInRange s.views[v].settings.ringBase s.views[v].settings.ringLength = true) ∧
    ∀ v u : LinkId, v ≠ u →
      placementsShare s.views[v].settings.ringBase s.views[v].settings.ringLength s.views[u].settings.ringBase
        s.views[u].settings.ringLength = false

/-- R39: the settings of a channel are within their ranges. -/
def ChannelSettings.legal (cs : ChannelSettings) : Prop :=
  1 ≤ cs.t0Period ∧ cs.t0Period ≤ 100 ∧ 1 ≤ cs.t1Period ∧ cs.t1Period ≤ 250 ∧ 1 ≤ cs.t2Period ∧ cs.t2Period ≤ 250 ∧
    1 ≤ cs.t3Period ∧ cs.t3Period ≤ 250 ∧ 1 ≤ cs.d0 ∧ cs.d0 ≤ 255 ∧ 1 ≤ cs.d1 ∧ cs.d1 ≤ 255 ∧ 1 ≤ cs.d2 ∧ cs.d2 ≤ 255

/-- R39, R62, R87, R108, R120: every setting is legal, and so is every combination of settings. Settings that are legal
by their type are not named. -/
def settingsLegal (s : State) : Prop :=
  (∀ c : ChannelId, s.settings.channels[c].legal) ∧
    (∀ t : TriggerId, s.settings.triggers[t].filter ≤ 7 ∧ triggerLegal s.settings.triggers[t] = true) ∧
    (1 ≤ s.settings.leaseTimeout ∧ s.settings.leaseTimeout ≤ 255) ∧
    (∀ v : LinkId, 64 ≤ s.views[v].settings.maxReply ∧ s.views[v].settings.maxReply ≤ 256) ∧ ringsDisjoint s

/-- R120: the countdown is stopped exactly while the lease is FREE, a disabled link does not hold it, and nobody holds
it before strap sampling. -/
def leaseConsistent (s : State) : Prop :=
  (s.lease.holder = none ↔ s.lease.countdown = .stopped) ∧ (s.phase ≠ .running → s.lease.holder = none) ∧
    ∀ l : LinkId, s.lease.holder = some l → linkEnabled s l = true

/-- R1, R2, R7, R34, R45: a channel is OFF exactly while its enable setting is 0, and every channel is OFF before strap
sampling; an OFF channel has no flag and no countdown; a priority flag stands on an ACTIVE channel alone; and an
exchange without the discard mark is of the kind that its channel's state calls for. -/
def channelsConsistent (s : State) : Prop :=
  (∀ c : ChannelId,
    (s.channels[c].state = .off ↔ s.settings.channels[c].enable = false) ∧
    (s.channels[c].state = .off →
      s.polls[c].due = false ∧ s.polls[c].priority = false ∧ s.polls[c].countdown = .stopped) ∧
    (s.polls[c].priority = true → s.channels[c].state = .active) ∧
    (s.phase ≠ .running → s.channels[c].state = .off)) ∧
    ∀ e, s.bus.exchange = some e → e.discard = false → kindFor s.channels[e.channel].state = some e.kind

/-- R66 to R70: after strap sampling every attention output stands as its inputs call for, and its timer is QUIET
outside PULSE mode. -/
def attentionCurrent (s : State) : Prop :=
  s.phase = .running → ∀ v : LinkId,
    s.attention[v].condition = attentionCondition s v ∧
      s.attention[v].line = .output (lineLevel s v s.attention[v].condition s.attention[v].timer) ∧
      (s.views[v].settings.attentionMode ≠ .pulse → s.attention[v].timer = .quiet)

/-- R52: the counts of an account are within their limits. -/
def Account.countsOk (a : Account) : Prop := a.gap ≤ Config.accountCountMax ∧ a.spill ≤ Config.accountCountMax

/-- R52, R54: the pending values of an account are within the ranges that the reported amounts leave. -/
def Account.pendingOk (rAlong rAcross : Int) (a : Account) : Prop :=
  pendingLow rAlong ≤ a.along ∧ a.along ≤ pendingHigh rAlong ∧ pendingLow rAcross ≤ a.across ∧
    a.across ≤ pendingHigh rAcross

/-- R56, R74: the lines of a report in flight name each channel once, with amounts that a pending value can have. -/
def View.linesOk (v : View) : Prop :=
  ∀ lines, v.report = some lines →
    (lines.map (·.channel)).Nodup ∧
      ∀ ln ∈ lines, -Config.pendingLimit ≤ ln.along ∧ ln.along ≤ Config.pendingLimit ∧
        -Config.pendingLimit ≤ ln.across ∧ ln.across ≤ Config.pendingLimit

/-- R52, R54: every account of every view is within its limits. -/
def accountsWithinLimits (s : State) : Prop :=
  ∀ v : LinkId, s.views[v].linesOk ∧
    ∀ (c : ChannelId) (a : Account), s.views[v].accounts[c] = some a →
      a.countsOk ∧ a.pendingOk (s.views[v].reportedAlong c) (s.views[v].reportedAcross c)

end Sys2Proof.Machine
end

