-- ==== Sys2Proof/Certificates/Slice0/Obligations.lean ====
section
/-! DEFINITION. The statements about the AM48 for the provers. Where a statement rests on a choice of the model, its
docstring names the log entry. -/

open Sys2Proof Sys2Proof.Machine

/-! ## The block and its queue -/

/-- The command at the front of the queue is run with the queue's rest. That an empty queue idles is the model's choice
(log 2). -/
def Obligations.StepRunsTheFrontCommand : Prop :=
  (∀ (i : Instr) (rest : List Instr) (s : State),
      step { s with pending := i :: rest } = exec i { s with pending := rest }) ∧
    ∀ s : State, s.pending = [] → step s = .next s

/-- Every command answers a next state, and no command touches the queue. That a command whose event cannot take place
changes nothing, in place of stopping, is the model's choice (log 1). -/
def Obligations.EveryCommandGoesOnAndKeepsTheQueue : Prop :=
  ∀ (i : Instr) (s : State), ∃ t, exec i s = .next t ∧ t.pending = s.pending

/-- R156, R158, R160: before strap sampling only RESET, RESET_RELEASE and STRAP_SAMPLING do anything, and no command of
a link that the LINKS strap disables does anything. A command whose event cannot take place in the state changes
nothing: the model's choice (log 1), and so is what an event of the turn, of the receiver or of an accepted write names
(log 6, log 8, log 10). Bytes on SDI that stop short of a completion leave the exchange in flight: the model's choice
(log 9). -/
def Obligations.EventsThatCannotTakePlaceChangeNothing : Prop :=
  (∀ (i : Instr) (s : State), s.phase ≠ .running → i ≠ .reset → i ≠ .resetRelease →
    (∀ atn ld, i ≠ .strapSampling atn ld) → exec i s = .next s) ∧
  (∀ s : State, s.phase ≠ .inReset → exec .resetRelease s = .next s) ∧
  (∀ (atn ld : BitVec 4) (s : State), s.phase ≠ .released → exec (.strapSampling atn ld) s = .next s) ∧
  (∀ (i : Instr) (l : LinkId) (s : State), linkOf i = some l → linkEnabled s l = false → exec i s = .next s) ∧
  (∀ (c : ChannelId) (s : State), s.polls[c].countdown ≠ .expiring → exec (.dueCountdownExpiry c) s = .next s) ∧
  (∀ s : State, s.lease.countdown ≠ .expiring → exec .leaseExpiry s = .next s) ∧
  (∀ (v : LinkId) (s : State), s.attention[v].tickOwed = false → exec (.pulseTimerTick v) s = .next s) ∧
  (∀ (i : TriggerId) (s : State), s.triggers[i].confirmOwed = false →
    exec (.triggerEdgeQualified i) s = .next s) ∧
  (∀ s : State, s.bus.exchange.isSome = true ∨
      (∀ c : ChannelId, s.polls[c].priority = false ∧ s.polls[c].due = false) → exec .grant s = .next s) ∧
  (∀ (sdi : List (Samples 8)) (s : State), s.bus.exchange = none → exec (.exchangeCompletion sdi) s = .next s) ∧
  (∀ (sdi : List (Samples 8)) (s : State) (e e' : Exchange), s.phase = .running → s.bus.exchange = some e →
    clockBytes s.settings.channels[e.channel].expectedId e (bytesOnSdi sdi) = .inFlight e' →
    exec (.exchangeCompletion sdi) s = .next { s with bus := { s.bus with exchange := some e' } }) ∧
  (∀ (l : LinkId) (s : State), s.links[l].tx ≠ .guard → exec (.guardEnd l) s = .next s) ∧
  (∀ (l : LinkId) (s : State), s.links[l].tx = .idle ∨ s.links[l].tx = .guard →
    exec (.replyDelivery l) s = .next s) ∧
  (∀ (l : LinkId) (s : State), s.links[l].owner = .client → exec (.contention l) s = .next s) ∧
  (∀ (l : LinkId) (order : BreakOrder) (s : State), s.links[l].receiver = .awaitMark true →
    exec (.lineBreak ⟨l, order⟩) s = .next s) ∧
  (∀ (l : LinkId) (check : Byte) (s : State),
    s.links[l].owner = .am48 ∨ (∀ x y z, s.links[l].receiver ≠ .header [x, y, z]) →
    exec (.frameHeaderReceived l check) s = .next s) ∧
  (∀ (l : LinkId) (crcLow : Byte) (s : State),
    s.links[l].owner = .am48 ∨ (∀ kind payload hi skip, s.links[l].receiver ≠ .footer kind payload (some hi) skip) →
    exec (.longFrameReceived l crcLow) s = .next s) ∧
  (∀ (l : LinkId) (s : State),
    s.links[l].receiver = .idle ∨ s.links[l].receiver = .discard ∨
      (∃ taken, s.links[l].receiver = .awaitMark taken) → exec (.frameTimeout l) s = .next s) ∧
  (∀ (l : LinkId) (s : State), s.links[l].receiver ≠ .discard → exec (.discardEnd l) s = .next s) ∧
  (∀ (l : LinkId) (s : State), (∀ taken, s.links[l].receiver ≠ .awaitMark taken) →
    exec (.returnToMark l) s = .next s) ∧
  (∀ (l : LinkId) (r : Request) (s : State),
    (∀ s1 rest, compositionState l s = some s1 → s1.links[l].queue ≠ r :: rest) →
    exec (commandOf l r) s = .next s) ∧
  (∀ (l : LinkId) (c : ChannelId) (s : State),
    (∀ s1 w, writeAtHead l s s1 w →
      ¬(s1.settings.channels[c].enable = false ∧ w.left.shared.channels[c].enable = true)) →
    exec (.channelEnable l c) s = .next s) ∧
  (∀ (l : LinkId) (c : ChannelId) (s : State),
    (∀ s1 w, writeAtHead l s s1 w →
      ¬(s1.settings.channels[c].enable = true ∧ w.left.shared.channels[c].enable = false)) →
    exec (.channelDisable l c) s = .next s) ∧
  (∀ (l : LinkId) (c : ChannelId) (tier : Tier) (s : State),
    (∀ s1 w, writeAtHead l s s1 w →
      ¬(Setting.channel c .forcedTier ∈ w.run ∧ w.left.shared.channels[c].forcedTier = some tier)) →
    exec (.forcedTierSet l c tier) s = .next s) ∧
  (∀ (l : LinkId) (c : ChannelId) (s : State),
    (∀ s1 w, writeAtHead l s s1 w →
      ¬(s1.settings.channels[c].forcedTier ≠ none ∧ w.left.shared.channels[c].forcedTier = none)) →
    exec (.forcedTierRelease l c) s = .next s) ∧
  (∀ (l : LinkId) (i : TriggerId) (s : State),
    (∀ s1 w, writeAtHead l s s1 w →
      ¬(s1.settings.triggers[i].enable = false ∧ w.left.shared.triggers[i].enable = true)) →
    exec (.triggerEnable l i) s = .next s) ∧
  (∀ (l : LinkId) (i : TriggerId) (s : State),
    (∀ s1 w, writeAtHead l s s1 w →
      ¬(s1.settings.triggers[i].enable = true ∧ w.left.shared.triggers[i].enable = false)) →
    exec (.triggerDisable l i) s = .next s) ∧
  (∀ (l : LinkId) (mask : Byte) (s : State),
    (∀ s1 w, writeAtHead l s s1 w → ¬(s1.views[l].settings.mask ≠ mask ∧ w.left.own.mask = mask)) →
    exec (.subscriptionChange l mask) s = .next s) ∧
  (∀ (l : LinkId) (base length : Nat) (s : State),
    (∀ s1 w, writeAtHead l s s1 w →
      ¬((Setting.own .ringBase ∈ w.run ∨ Setting.own .ringLength ∈ w.run) ∧ w.left.own.ringBase = base ∧
        w.left.own.ringLength = length)) →
    exec (.ringPlacement l base length) s = .next s) ∧
  ∀ (l : LinkId) (mode : AttentionMode) (polarity : Polarity) (sources : BitVec 4) (s : State),
    (∀ s1 w, writeAtHead l s s1 w →
      ¬((Setting.own .attentionMode ∈ w.run ∨ Setting.own .polarity ∈ w.run ∨ Setting.own .sources ∈ w.run) ∧
        w.left.own.attentionMode = mode ∧ w.left.own.polarity = polarity ∧ w.left.own.sources = sources)) →
    exec (.attentionSettingsWrite l mode polarity sources) s = .next s

/-! ## Reset, start-up and ticks -/

/-- R158: RESET brings every block to its reset values, from any state; the values are those of R1, R23, R32, R38, R39,
R51, R87, R89, R106, R120 and R136. RESET_RELEASE lets the time base start, and changes nothing else. The straps before
they are sampled are the model's choice (log 13) and are not stated. -/
def Obligations.ResetReturnsEveryBlock : Prop :=
  (∀ s : State, ∃ t, exec .reset s = .next t ∧ t.phase = .inReset ∧ t.tickCount = 0 ∧
    (∀ c : ChannelId,
      t.channels[c] =
        { state := .off, movementAlong := 0, movementAcross := 0, offsetAlong := 0, offsetAcross := 0, faults := 0,
          lastCause := .none } ∧
      t.polls[c] = { tier := .t0, idleCount := 0, countdown := .stopped, due := false, priority := false } ∧
      t.settings.channels[c] =
        { enable := false, expectedId := 0, t0Period := 10, t1Period := 10, t2Period := 50, t3Period := 200,
          d0 := 64, d1 := 32, d2 := 16, forcedTier := none }) ∧
    t.bus = { exchange := none, pointer := 7, streak := 0 } ∧
    (∀ v : LinkId,
      t.views[v].settings =
        { mask := 0, width := .w16, includeAbsolute := false, maxReply := 128, triggerSelection := 0,
          attentionMode := .off, polarity := .activeLow, sources := 1, ringBase := 0, ringLength := 0 } ∧
      t.views[v].report = none ∧ (∀ c : ChannelId, t.views[v].accounts[c] = none) ∧ t.views[v].leaseLost = false ∧
      t.views[v].lostAgain = false ∧ t.attention[v].timer = .quiet ∧ t.attention[v].line = .input ∧
      t.rings[v] = { head := 0, count := 0, dropped := 0, report := none } ∧
      t.links[v] =
        { owner := .client, receiver := .idle, queue := [], summary := 0, accepted := 0, corrected := 0,
          discarded := 0, breaks := 0, tx := .idle, status := none }) ∧
    (∀ i : TriggerId, t.triggers[i].watch = .off ∧ t.triggers[i].stable = .low ∧ t.triggers[i].run = 0 ∧
      t.triggers[i].capture = none ∧
      t.settings.triggers[i] =
        { enable := false, edge := .rising, filter := 2, mode := .instant, mask := 0 }) ∧
    (∀ i : Fin 128, t.slots[i] = none) ∧ t.lease = { holder := none, countdown := .stopped } ∧
    t.settings.leaseTimeout = 50) ∧
  ∀ s : State, s.phase = .inReset → exec .resetRelease s = .next { s with phase := .released }

/-- R159, R18, R65, R70, R106, R136, R156, R160: strap sampling gives every block its first values. Since only RESET,
RESET_RELEASE and STRAP_SAMPLING do anything before it, the state it finds is the reset state, released. That the first
tick is the STRAP_SAMPLING command is read from R158 (log 5); a receiver that finds space waits for mark (log 15). -/
def Obligations.StrapSamplingGivesFirstValues : Prop :=
  ∀ (atn ld : BitVec 4) (p : List Instr), ∃ t,
    exec (.strapSampling atn ld) { State.reset with phase := .released, pending := p } = .next t ∧
    t.phase = .running ∧ t.tickCount = 1 ∧ t.lease = Lease.reset ∧ t.bus = Bus.reset ∧
    t.slots = State.reset.slots ∧ t.settings.triggers = Settings.reset.triggers ∧ t.settings.leaseTimeout = 50 ∧
    t.straps = { rate := atn.extractLsb' 0 2, twoLinks := atn.getLsbD 2, autostart := atn.getLsbD 3 } ∧
    (∀ c : ChannelId, t.settings.channels[c] = { ChannelSettings.reset with enable := atn.getLsbD 3 } ∧
      t.channels[c] = { Channel.reset with state := if atn.getLsbD 3 then .identify else .off } ∧
      t.polls[c] = { Poll.reset with due := atn.getLsbD 3 }) ∧
    (∀ v : LinkId, t.attention[v].line = .output .high ∧ t.attention[v].timer = .quiet ∧
      (∃ base length, t.views[v].settings =
          { ViewSettings.reset with
            mask := if atn.getLsbD 3 && !(atn.getLsbD 2 && decide (2 ≤ v.val)) then 0xFF else 0
            attentionMode := if atn.getLsbD 3 && !(atn.getLsbD 2 && decide (2 ≤ v.val)) then .level else .off
            ringBase := base
            ringLength := length } ∧
        (atn.getLsbD 2 = false → base = 4 * v.val ∧ length = 4) ∧
        (atn.getLsbD 2 = true → v.val < 2 → base = 8 * v.val ∧ length = 8) ∧
        (atn.getLsbD 2 = true → 2 ≤ v.val → base = 0 ∧ length = 0)) ∧
      (∀ c : ChannelId, t.views[v].accounts[c] =
        if atn.getLsbD 3 && !(atn.getLsbD 2 && decide (2 ≤ v.val)) then some Account.created else none) ∧
      t.views[v].report = none ∧ t.views[v].leaseLost = false ∧ t.views[v].lostAgain = false ∧
      t.rings[v] = Ring.reset ∧
      t.links[v] = { Link.reset with
        receiver :=
          if ld.getLsbD v.val || (atn.getLsbD 2 && decide (2 ≤ v.val)) then .idle else .awaitMark false }) ∧
    ∀ i : TriggerId, t.triggers[i] = Trigger.reset

/-- R157, R40, R121: at a tick the counter rises by 1 and every countdown decreases; the last tick of a countdown leaves
its expiry to be taken, and the pulse timers their tick (log 3). An expiry left over from the tick before is taken first
(log 3). -/
def Obligations.TickCountsEveryCountdownDown : Prop :=
  (∀ (trg : BitVec 4) (s : State), s.phase = .running → nothingOwed s → ∃ t, exec (.tick trg) s = .next t ∧
    t.tickCount = s.tickCount + 1 ∧
    (∀ c : ChannelId,
      (s.polls[c].countdown = .stopped → t.polls[c] = s.polls[c]) ∧
      (∀ n, s.polls[c].countdown = .running (n + 2) →
        t.polls[c] = { s.polls[c] with countdown := .running (n + 1) }) ∧
      (s.polls[c].countdown = .running 1 → t.polls[c] = { s.polls[c] with countdown := .expiring })) ∧
    t.lease.holder = s.lease.holder ∧
    (s.lease.countdown = .stopped → t.lease.countdown = .stopped) ∧
    (∀ n, s.lease.countdown = .running (n + 2) → t.lease.countdown = .running (n + 1)) ∧
    (s.lease.countdown = .running 1 → t.lease.countdown = .expiring) ∧
    (∀ v : LinkId, t.attention[v] =
      { s.attention[v] with tickOwed := decide (s.views[v].settings.attentionMode = .pulse) }) ∧
    t = { s with
      tickCount := t.tickCount, polls := t.polls, lease := t.lease, attention := t.attention
      triggers := t.triggers }) ∧
  ∀ (trg : BitVec 4) (s : State), s.phase = .running → ∃ t, exec (.tick trg) s = .next t ∧
    t.tickCount = s.tickCount + 1 ∧
    (∀ c : ChannelId, s.polls[c].countdown = .expiring → t.polls[c].due = true ∧ t.polls[c].countdown = .stopped) ∧
    ∀ l : LinkId, s.lease.countdown = .expiring → s.lease.holder = some l →
      t.lease.holder = none ∧ t.lease.countdown = .stopped ∧ t.views[l].leaseLost = true

/-- R90, R91: what the sample of a tick does to a trigger. The confirmation is left to be taken (log 3). -/
def Obligations.TickSamplesEveryTrigger : Prop :=
  ∀ (trg : BitVec 4) (s : State), s.phase = .running → nothingOwed s → ∃ t, exec (.tick trg) s = .next t ∧
    ∀ i : TriggerId,
    (s.triggers[i].watch = .off → t.triggers[i] = s.triggers[i]) ∧
    (s.triggers[i].watch = .starting →
      t.triggers[i] = { s.triggers[i] with watch := .watching, stable := levelOf (trg.getLsbD i.val), run := 0 }) ∧
    (s.triggers[i].watch = .watching → levelOf (trg.getLsbD i.val) = s.triggers[i].stable →
      t.triggers[i] = { s.triggers[i] with run := 0 }) ∧
    (s.triggers[i].watch = .watching → levelOf (trg.getLsbD i.val) ≠ s.triggers[i].stable →
      t.triggers[i] = { s.triggers[i] with
        run := satInc 8 s.triggers[i].run
        confirmOwed := decide (s.settings.triggers[i].filter + 1 ≤ satInc 8 s.triggers[i].run) })

/-- R40, R121, R61: the expiry of a due countdown sets the due flag and stops the countdown. The expiry of the lease
frees it and sets the former holder's notice, with the marker if a LINK STATUS DATA that reported the notice set is
being sent; attention follows. Nothing else changes. -/
def Obligations.ExpiriesTakeEffect : Prop :=
  (∀ (c : ChannelId) (s : State), s.phase = .running → s.polls[c].countdown = .expiring →
    exec (.dueCountdownExpiry c) s =
      .next { s with polls := upd s.polls c fun p => { p with due := true, countdown := .stopped } }) ∧
  ∀ (l : LinkId) (s : State), s.phase = .running → s.lease.holder = some l → s.lease.countdown = .expiring →
    exec .leaseExpiry s = .next (attendAll
      { s with
        lease := { holder := none, countdown := .stopped }
        views := upd s.views l fun v =>
          { v with
            leaseLost := true
            lostAgain := v.lostAgain || (match s.links[l].status with
              | some st => st.notice
              | none => false) } })

/-! ## Attention -/

/-- R66 to R70: at the end of an event the timer of a view in PULSE mode moves by a false-to-true change of the
condition alone, outside PULSE mode it is QUIET, and the line stands as its mode, polarity and link call for. At its
tick a pulse timer moves by the table of R68, and nothing else changes. -/
def Obligations.AttentionFollowsTheCondition : Prop :=
  (∀ (v : LinkId) (s : State),
    (attendAll s).attention[v].condition = attentionCondition s v ∧
    (s.views[v].settings.attentionMode = .pulse →
      (s.attention[v].condition = false → attentionCondition s v = true →
        (s.attention[v].timer = .quiet → (attendAll s).attention[v].timer = .owed) ∧
        (s.attention[v].timer = .owed → (attendAll s).attention[v].timer = .owed) ∧
        (s.attention[v].timer = .pulsing → (attendAll s).attention[v].timer = .pulsingOwed) ∧
        (s.attention[v].timer = .pulsingOwed → (attendAll s).attention[v].timer = .pulsingOwed)) ∧
      (s.attention[v].condition = true ∨ attentionCondition s v = false →
        (attendAll s).attention[v].timer = s.attention[v].timer) ∧
      (linkEnabled s v = true → (attendAll s).attention[v].line =
        .output (polarityLevel s.views[v].settings.polarity
          (decide ((attendAll s).attention[v].timer = .pulsing ∨
            (attendAll s).attention[v].timer = .pulsingOwed))))) ∧
    (s.views[v].settings.attentionMode ≠ .pulse → (attendAll s).attention[v].timer = .quiet) ∧
    (s.views[v].settings.attentionMode = .level → linkEnabled s v = true →
      (attendAll s).attention[v].line =
        .output (polarityLevel s.views[v].settings.polarity (attentionCondition s v))) ∧
    (s.views[v].settings.attentionMode = .off → linkEnabled s v = true →
      (attendAll s).attention[v].line = .output (polarityLevel s.views[v].settings.polarity false)) ∧
    (linkEnabled s v = false → (attendAll s).attention[v].line = .output .high) ∧
    attendAll s = { s with attention := (attendAll s).attention }) ∧
  ∀ (v : LinkId) (s : State), s.phase = .running → attentionCurrent s → s.attention[v].tickOwed = true →
    s.views[v].settings.attentionMode = .pulse → ∃ t, exec (.pulseTimerTick v) s = .next t ∧
    (s.attention[v].timer = .quiet → t.attention[v].timer = .quiet) ∧
    (s.attention[v].timer = .owed → t.attention[v].timer = .pulsing) ∧
    (s.attention[v].timer = .pulsing → t.attention[v].timer = .quiet) ∧
    (s.attention[v].timer = .pulsingOwed → t.attention[v].timer = .owed) ∧
    t.attention[v].condition = s.attention[v].condition ∧ t.attention[v].tickOwed = false ∧
    (linkEnabled s v = true → t.attention[v].line = .output
      (polarityLevel s.views[v].settings.polarity (decide (s.attention[v].timer = .owed)))) ∧
    (∀ u : LinkId, u ≠ v → t.attention[u] = s.attention[u]) ∧
    t = { s with attention := t.attention }

/-! ## Triggers and captures -/

/-- R91, R92, R101: a confirmed change moves the stable level. One that is not an edge under the edge setting does
nothing more. A qualified edge that finds a capture in flight is dropped, and the record's overlap becomes 1. -/
def Obligations.ConfirmedChangesThatOpenNoCapture : Prop :=
  ∀ (i : TriggerId) (s : State), s.phase = .running → s.triggers[i].confirmOwed = true →
    (qualifies s.settings.triggers[i].edge (changeFrom s.triggers[i].stable) = false →
      exec (.triggerEdgeQualified i) s = .next
        { s with
          triggers := upd s.triggers i fun g =>
            { g with stable := g.stable.flip, run := 0, confirmOwed := false } }) ∧
    (attentionCurrent s → qualifies s.settings.triggers[i].edge (changeFrom s.triggers[i].stable) = true →
      ∀ cap, s.triggers[i].capture = some cap →
      exec (.triggerEdgeQualified i) s = .next
        { s with
          triggers := upd s.triggers i fun g =>
            { g with
              stable := g.stable.flip
              run := 0
              confirmOwed := false
              capture := some { cap with overlap := true } } })

/-- R94, R95, R102, R112: a qualified edge whose entries are all filled at the edge, in INSTANT mode or because no
channel of the mask is ACTIVE, makes a whole record in its event. Each view that selects the trigger keeps a copy behind
its records, or counts a drop. No flag is set and no bus time taken. -/
def Obligations.EdgeThatFillsEveryEntryMakesARecord : Prop :=
  ∀ (i : TriggerId) (s : State), s.phase = .running → ringsDisjoint s → s.triggers[i].confirmOwed = true →
    qualifies s.settings.triggers[i].edge (changeFrom s.triggers[i].stable) = true → s.triggers[i].capture = none →
    (s.settings.triggers[i].mode = .instant ∨
      ∀ c : ChannelId, s.settings.triggers[i].mask.getLsbD c.val = true → s.channels[c].state ≠ .active) →
    ∃ t, exec (.triggerEdgeQualified i) s = .next t ∧
    t.triggers = upd s.triggers i (fun g => { g with stable := g.stable.flip, run := 0, confirmOwed := false }) ∧
    (∀ v : LinkId, s.views[v].settings.triggerSelection.getLsbD i.val = false → t.rings[v] = s.rings[v]) ∧
    (∀ v : LinkId, s.views[v].settings.triggerSelection.getLsbD i.val = true →
      8 * s.views[v].settings.ringLength ≤ s.rings[v].count →
      t.rings[v] = { s.rings[v] with dropped := satInc 255 s.rings[v].dropped }) ∧
    (∀ v : LinkId, s.views[v].settings.triggerSelection.getLsbD i.val = true →
      s.rings[v].count < 8 * s.views[v].settings.ringLength →
      t.rings[v] = { s.rings[v] with count := s.rings[v].count + 1 } ∧
      readSlot t.slots (slotBehindHead s v s.rings[v].count) =
        some
          { trigger := i, edge := changeFrom s.triggers[i].stable, overlap := false, timestamp := s.tickCount,
            entries := (allChannels.filter fun c => s.settings.triggers[i].mask.getLsbD c.val).map fun c =>
              { channel := c, status := if s.channels[c].state = .active then .current else .stale,
                along := s.channels[c].movementAlong + s.channels[c].offsetAlong,
                across := s.channels[c].movementAcross + s.channels[c].offsetAcross } }) ∧
    (∀ n : Nat,
      (∀ v : LinkId, s.views[v].settings.triggerSelection.getLsbD i.val = true →
        s.rings[v].count < 8 * s.views[v].settings.ringLength → n ≠ slotBehindHead s v s.rings[v].count) →
      readSlot t.slots n = readSlot s.slots n) ∧
    t = { s with triggers := t.triggers, slots := t.slots, rings := t.rings, attention := t.attention }

/-- R95, R46: a qualified edge in REFRESH mode with an ACTIVE channel in its mask opens a capture: entries of ACTIVE
channels wait for a grant with their priority flags set, and the others are STALE at once. Nothing is handed over. -/
def Obligations.RefreshEdgeOpensACapture : Prop :=
  ∀ (i : TriggerId) (s : State), s.phase = .running → attentionCurrent s → s.triggers[i].confirmOwed = true →
    qualifies s.settings.triggers[i].edge (changeFrom s.triggers[i].stable) = true → s.triggers[i].capture = none →
    s.settings.triggers[i].mode = .refresh →
    (∃ c : ChannelId, s.settings.triggers[i].mask.getLsbD c.val = true ∧ s.channels[c].state = .active) →
    ∃ t, exec (.triggerEdgeQualified i) s = .next t ∧
    t.triggers = upd s.triggers i (fun g =>
      { g with
        stable := g.stable.flip
        run := 0
        confirmOwed := false
        capture := some
          { edge := changeFrom s.triggers[i].stable, overlap := false, timestamp := s.tickCount,
            entries := (allChannels.filter fun c => s.settings.triggers[i].mask.getLsbD c.val).map fun c =>
              { channel := c,
                stage := if s.channels[c].state = .active then .awaitingGrant
                  else .filled .stale (s.channels[c].movementAlong + s.channels[c].offsetAlong)
                    (s.channels[c].movementAcross + s.channels[c].offsetAcross) } } }) ∧
    (∀ c : ChannelId, t.polls[c] =
      if s.settings.triggers[i].mask.getLsbD c.val = true ∧ s.channels[c].state = .active then
        { s.polls[c] with priority := true } else s.polls[c]) ∧
    t = { s with triggers := t.triggers, polls := t.polls }

/-! ## The sensor bus -/

/-- R34, R35: the priority set is used unless it is empty, or the due set waits and the streak has reached 4; within the
set used, the channel chosen is the first in cyclic order after the pointer. -/
def Obligations.ArbiterChoosesByR34AndR35 : Prop :=
  ∀ s : State,
    ((∀ c : ChannelId, s.polls[c].priority = false ∧ s.polls[c].due = false) → arbiterChoice s = none) ∧
    ((∃ c : ChannelId, s.polls[c].priority = true) →
      ((∀ c : ChannelId, s.polls[c].due = false) ∨ s.bus.streak < 4) →
      ∃ c, arbiterChoice s = some c ∧ s.polls[c].priority = true ∧
        ∀ d : ChannelId, (d - (s.bus.pointer + 1)).val < (c - (s.bus.pointer + 1)).val →
          s.polls[d].priority = false) ∧
    ((∃ c : ChannelId, s.polls[c].due = true) →
      ((∀ c : ChannelId, s.polls[c].priority = false) ∨ 4 ≤ s.bus.streak) →
      ∃ c, arbiterChoice s = some c ∧ s.polls[c].due = true ∧
        ∀ d : ChannelId, (d - (s.bus.pointer + 1)).val < (c - (s.bus.pointer + 1)).val → s.polls[d].due = false)

/-- R24, R35, R41, R96: a grant starts the exchange that the channel's state calls for, moves the pointer, clears the
channel's flags, stops its countdown, and moves its waiting entries on. -/
def Obligations.GrantStartsAnExchange : Prop :=
  ∀ (s : State) (c : ChannelId), s.phase = .running → s.bus.exchange = none → arbiterChoice s = some c →
    s.channels[c].state ≠ .off → ∃ t, exec .grant s = .next t ∧
    t.bus.exchange = some
      { channel := c, kind := if s.channels[c].state = .active then .motion else .identify, discard := false,
        stage := .command, fillers := 0, block := [] } ∧
    t.bus.pointer = c ∧
    t.polls = upd s.polls c (fun p => { p with due := false, priority := false, countdown := .stopped }) ∧
    (∀ i : TriggerId, t.triggers[i] = { s.triggers[i] with
      capture := s.triggers[i].capture.map fun cap =>
        { cap with
          entries := cap.entries.map fun e =>
            if e.channel = c ∧ e.stage = .awaitingGrant then { e with stage := .awaitingResult } else e } }) ∧
    t = { s with bus := t.bus, polls := t.polls, triggers := t.triggers }

/-- R36: the priority-streak counter at a grant, and that no other command but RESET changes it. -/
def Obligations.StreakCountsPriorityGrants : Prop :=
  (∀ (s t : State) (c : ChannelId), s.phase = .running → s.bus.exchange = none → arbiterChoice s = some c →
    s.channels[c].state ≠ .off → exec .grant s = .next t →
    (usesPriority s = true → (∃ d : ChannelId, d ≠ c ∧ s.polls[d].due = true) →
      t.bus.streak = if s.bus.streak < 4 then s.bus.streak + 1 else s.bus.streak) ∧
    (usesPriority s = true → (∀ d : ChannelId, d ≠ c → s.polls[d].due = false) → t.bus.streak = 0) ∧
    (usesPriority s = false → t.bus.streak = 0)) ∧
  ∀ (i : Instr) (s t : State), i ≠ .grant → i ≠ .reset → exec i s = .next t → t.bus.streak = s.bus.streak

/-- R20, R21, R23: the lines of the sensor bus. With the bus IDLE every select is high, SCK is high and SDO low. With an
exchange in flight the select of its channel alone is low, and SDO carries the command byte in COMMAND and 00h after it.
Bytes go out and come in most significant bit first. R25 to R28: what the bytes on SDI decide, from the command byte on:
eight fillers without a sync byte, an identify block, a motion block. -/
def Obligations.OutcomesOnTheWire : Prop :=
  (∀ b : Bus,
    (b.exchange = none → (∀ c : ChannelId, selectLow b c = false) ∧ sckIdle b = true ∧ sdoLevels b = 0) ∧
    ∀ e, b.exchange = some e → (∀ c : ChannelId, selectLow b c = true ↔ c = e.channel) ∧ sckIdle b = false ∧
      (e.stage = .command → e.kind = .identify → ∀ n < 8, (sdoLevels b).getLsbD n = (0x3C : Byte).getLsbD (7 - n)) ∧
      (e.stage = .command → e.kind = .motion → ∀ n < 8, (sdoLevels b).getLsbD n = (0xC5 : Byte).getLsbD (7 - n)) ∧
      (e.stage ≠ .command → sdoLevels b = 0)) ∧
  (∀ sdi : List (Samples 8), (bytesOnSdi sdi).length = sdi.length ∧
    ∀ (k : Nat) (levels : Samples 8) (x : Byte), sdi[k]? = some levels → (bytesOnSdi sdi)[k]? = some x →
      ∀ n < 8, x.getLsbD (7 - n) = levels.getLsbD n) ∧
  ∀ (expected x : Byte) (c : ChannelId) (m : Bool) (fills : List Byte), Config.syncByte ∉ fills →
    (∀ kind, fills.length = 8 →
      clockBytes expected ⟨c, kind, m, .command, 0, []⟩ (x :: fills) =
        .completed ⟨c, kind, m, .hunt, 8, []⟩ (.failed .noResponse)) ∧
    (fills.length ≤ 7 → ∀ i k : Byte,
      clockBytes expected ⟨c, .identify, m, .command, 0, []⟩ (x :: fills ++ [Config.syncByte, i, k]) =
        .completed ⟨c, .identify, m, .block, fills.length, [i, k]⟩ (if k ≠ ~~~i then .failed .idCheck
          else if expected ≠ 0 ∧ i ≠ expected then .failed .idMismatch else .identified)) ∧
    (fills.length ≤ 7 → ∀ st al ac hn q k : Byte,
      clockBytes expected ⟨c, .motion, m, .command, 0, []⟩ (x :: fills ++ [Config.syncByte, st, al, ac, hn, q, k]) =
        .completed ⟨c, .motion, m, .block, fills.length, [st, al, ac, hn, q, k]⟩ (if k ≠ ~~~st then .failed .blockCheck
          else if st.getLsbD 6 = true then .failed .sensorFault
          else if st.getLsbD 7 = true then .moved (hn.extractLsb' 4 4 ++ al) (hn.extractLsb' 0 4 ++ ac) q
          else .moved 0 0 q))

/-- R10, R11, R43, R53: a motion success adds its deltas to the movement counts and to every subscribed view, clears the
faults and reloads the countdown with the period of the tier it leaves. -/
def Obligations.MotionSuccessIsCounted : Prop :=
  ∀ (s : State) (e e' : Exchange) (sdi : List (Samples 8)) (x y : BitVec 12) (q : Byte), s.phase = .running →
    s.bus.exchange = some e → e.discard = false → e.kind = .motion → s.channels[e.channel].state = .active →
    clockBytes s.settings.channels[e.channel].expectedId e (bytesOnSdi sdi) = .completed e' (.moved x y q) →
    ∃ t, exec (.exchangeCompletion sdi) s = .next t ∧ t.bus = { s.bus with exchange := none } ∧
    t.channels = upd s.channels e.channel (fun ch =>
      { ch with
        movementAlong := ch.movementAlong + x.signExtend 32
        movementAcross := ch.movementAcross + y.signExtend 32
        faults := 0 }) ∧
    (∀ v : LinkId, t.views[v] = s.views[v].accumulate e.channel x y q) ∧
    (∀ d : ChannelId, d ≠ e.channel → t.polls[d] = s.polls[d]) ∧
    t.polls[e.channel].due = s.polls[e.channel].due ∧ t.polls[e.channel].priority = s.polls[e.channel].priority ∧
    t.polls[e.channel].countdown =
      .running (periodTicks s.settings.channels[e.channel] t.polls[e.channel].tier) ∧
    t = { s with
      bus := t.bus, channels := t.channels, views := t.views, polls := t.polls, triggers := t.triggers
      slots := t.slots, rings := t.rings, attention := t.attention }

/-- R42: the tier and idle count that a motion success leaves, and the reload by the tier that results. -/
def Obligations.MotionSuccessMovesTheTier : Prop :=
  ∀ (s t : State) (e e' : Exchange) (sdi : List (Samples 8)) (x y : BitVec 12) (q : Byte), s.phase = .running →
    s.bus.exchange = some e → e.discard = false → e.kind = .motion → s.channels[e.channel].state = .active →
    clockBytes s.settings.channels[e.channel].expectedId e (bytesOnSdi sdi) = .completed e' (.moved x y q) →
    exec (.exchangeCompletion sdi) s = .next t →
    ((x ≠ 0 ∨ y ≠ 0) → t.polls[e.channel].idleCount = 0 ∧
      t.polls[e.channel].tier =
        if s.settings.channels[e.channel].forcedTier = none then .t0 else s.polls[e.channel].tier) ∧
    (x = 0 → y = 0 → s.settings.channels[e.channel].forcedTier ≠ none ∨ s.polls[e.channel].tier = .t3 →
      t.polls[e.channel].tier = s.polls[e.channel].tier ∧
      t.polls[e.channel].idleCount = satInc 255 s.polls[e.channel].idleCount) ∧
    (x = 0 → y = 0 → s.settings.channels[e.channel].forcedTier = none →
      ∀ d, downshiftCount s.settings.channels[e.channel] s.polls[e.channel].tier = some d →
      (d ≤ satInc 255 s.polls[e.channel].idleCount →
        t.polls[e.channel].tier = nextTier s.polls[e.channel].tier ∧ t.polls[e.channel].idleCount = 0) ∧
      (satInc 255 s.polls[e.channel].idleCount < d →
        t.polls[e.channel].tier = s.polls[e.channel].tier ∧
        t.polls[e.channel].idleCount = satInc 255 s.polls[e.channel].idleCount)) ∧
    t.polls[e.channel].countdown =
      .running (periodTicks s.settings.channels[e.channel] t.polls[e.channel].tier)

/-- R12, R43, R44, R55: a motion failure counts a fault and a gap in every subscribed view, and the third makes the
channel FAULTED, clears its priority flag and reloads the T3 period. -/
def Obligations.MotionFailureCountsAGap : Prop :=
  ∀ (s : State) (e e' : Exchange) (sdi : List (Samples 8)) (cause : FaultCause), s.phase = .running →
    s.bus.exchange = some e → e.discard = false → e.kind = .motion → s.channels[e.channel].state = .active →
    clockBytes s.settings.channels[e.channel].expectedId e (bytesOnSdi sdi) = .completed e' (.failed cause) →
    ∃ t, exec (.exchangeCompletion sdi) s = .next t ∧ t.bus = { s.bus with exchange := none } ∧
    t.channels = upd s.channels e.channel (fun ch =>
      { ch with
        lastCause := cause
        faults := ch.faults + 1
        state := if 3 ≤ ch.faults + 1 then .faulted else .active }) ∧
    (∀ v : LinkId, t.views[v] = s.views[v].countGap e.channel) ∧
    t.polls = upd s.polls e.channel (fun p =>
      if 3 ≤ s.channels[e.channel].faults + 1 then
        { p with
          priority := false
          countdown := .running (10 * s.settings.channels[e.channel].t3Period) }
      else { p with countdown := .running (periodTicks s.settings.channels[e.channel] p.tier) }) ∧
    t = { s with
      bus := t.bus, channels := t.channels, views := t.views, polls := t.polls, triggers := t.triggers
      slots := t.slots, rings := t.rings, attention := t.attention }

/-- R97, R98, R102, R112: a motion success fills FRESH every entry AWAITING_RESULT on its channel, with the absolute
positions that include its deltas. A motion failure fills them STALE, and with them the entries AWAITING_GRANT if it
makes the channel FAULTED. A capture left with no unfilled entry is no longer in flight: its finished record is handed
over, in ascending trigger number, to every view that selects the trigger, and no other slot or ring changes. -/
def Obligations.CompletionsFillTheirEntries : Prop :=
  ∀ (s t : State) (e e' : Exchange) (sdi : List (Samples 8)) (o : ExchangeOutcome), s.phase = .running →
    s.bus.exchange = some e → e.discard = false → e.kind = .motion → s.channels[e.channel].state = .active →
    clockBytes s.settings.channels[e.channel].expectedId e (bytesOnSdi sdi) = .completed e' o → o ≠ .identified →
    exec (.exchangeCompletion sdi) s = .next t →
    ∃ filled : TriggerId → Option Capture,
      (∀ i : TriggerId, filled i = s.triggers[i].capture.map fun cap =>
        { cap with
          entries := cap.entries.map fun en =>
            if en.channel = e.channel ∧
                (en.stage = .awaitingResult ∨
                  (en.stage = .awaitingGrant ∧ t.channels[e.channel].state = .faulted)) then
              { en with
                stage := .filled
                  (match o with
                    | .moved _ _ _ => .fresh
                    | .failed _ => .stale
                    | .identified => .stale)
                  (t.channels[e.channel].movementAlong + t.channels[e.channel].offsetAlong)
                  (t.channels[e.channel].movementAcross + t.channels[e.channel].offsetAcross) }
            else en }) ∧
      (∀ i : TriggerId, t.triggers[i] = { s.triggers[i] with capture := stillInFlight (filled i) }) ∧
      (ringsDisjoint s → ∃ rs, finishedRecords filled rs ∧ handsOver rs s t)

/-- R8, R9, R43: an identify success makes the channel ACTIVE in T0 or its forced tier. An identify failure records its
cause; in IDENTIFY it counts a fault and the third makes the channel FAULTED; the retry period is T0's in IDENTIFY and
T3's in FAULTED. No view's account changes. -/
def Obligations.IdentifyOutcomesAreApplied : Prop :=
  ∀ (s : State) (e e' : Exchange) (sdi : List (Samples 8)) (o : ExchangeOutcome), s.phase = .running →
    s.bus.exchange = some e → e.discard = false → e.kind = .identify →
    clockBytes s.settings.channels[e.channel].expectedId e (bytesOnSdi sdi) = .completed e' o →
    (o = .identified → s.channels[e.channel].state = .identify ∨ s.channels[e.channel].state = .faulted →
      exec (.exchangeCompletion sdi) s = .next (attendAll
        { s with
          bus := { s.bus with exchange := none }
          channels := upd s.channels e.channel fun ch => { ch with state := .active, faults := 0 }
          polls := upd s.polls e.channel fun p =>
            { p with
              tier := (s.settings.channels[e.channel].forcedTier).getD .t0
              idleCount := 0
              countdown := .running (periodTicks s.settings.channels[e.channel]
                ((s.settings.channels[e.channel].forcedTier).getD .t0)) } })) ∧
    ∀ cause, o = .failed cause →
      (s.channels[e.channel].state = .identify → s.channels[e.channel].faults + 1 < 3 →
        exec (.exchangeCompletion sdi) s = .next (attendAll
          { s with
            bus := { s.bus with exchange := none }
            channels := upd s.channels e.channel fun ch => { ch with lastCause := cause, faults := ch.faults + 1 }
            polls := upd s.polls e.channel fun p =>
              { p with countdown := .running s.settings.channels[e.channel].t0Period } })) ∧
      (s.channels[e.channel].state = .identify → 3 ≤ s.channels[e.channel].faults + 1 →
        exec (.exchangeCompletion sdi) s = .next (attendAll
          { s with
            bus := { s.bus with exchange := none }
            channels := upd s.channels e.channel fun ch =>
              { ch with lastCause := cause, faults := ch.faults + 1, state := .faulted }
            polls := upd s.polls e.channel fun p =>
              { p with countdown := .running (10 * s.settings.channels[e.channel].t3Period) } })) ∧
      (s.channels[e.channel].state = .faulted →
        exec (.exchangeCompletion sdi) s = .next (attendAll
          { s with
            bus := { s.bus with exchange := none }
            channels := upd s.channels e.channel fun ch => { ch with lastCause := cause }
            polls := upd s.polls e.channel fun p =>
              { p with countdown := .running (10 * s.settings.channels[e.channel].t3Period) } }))

/-- R6: a marked completion applies nothing to the channel; a motion one counts a gap in every subscribed view. -/
def Obligations.DiscardedCompletionAppliesNothing : Prop :=
  ∀ (s : State) (e e' : Exchange) (sdi : List (Samples 8)) (o : ExchangeOutcome), s.phase = .running →
    s.bus.exchange = some e → e.discard = true →
    clockBytes s.settings.channels[e.channel].expectedId e (bytesOnSdi sdi) = .completed e' o →
    ∃ t, exec (.exchangeCompletion sdi) s = .next t ∧ t.bus = { s.bus with exchange := none } ∧
    (∀ v : LinkId, t.views[v] =
      match e.kind with
      | .motion => s.views[v].countGap e.channel
      | .identify => s.views[v]) ∧
    t = { s with bus := t.bus, views := t.views, attention := t.attention }

/-! ## Views and motion reports -/

/-- R53, R54: an account takes a delta whole, or is held at the limit that the reported amount leaves; a clipped axis, or
two, count one spill; the minimum quality is lowered. -/
def Obligations.AccumulationKeepsOrClips : Prop :=
  ∀ (r1 r2 x y : Int) (q : Byte) (a : Account), a.pendingOk r1 r2 →
    (a.accumulate r1 r2 x y q).pendingOk r1 r2 ∧
    ((a.accumulate r1 r2 x y q).along = a.along + x ∨
      ((a.accumulate r1 r2 x y q).along = pendingHigh r1 ∧ pendingHigh r1 < a.along + x) ∨
      ((a.accumulate r1 r2 x y q).along = pendingLow r1 ∧ a.along + x < pendingLow r1)) ∧
    ((a.accumulate r1 r2 x y q).across = a.across + y ∨
      ((a.accumulate r1 r2 x y q).across = pendingHigh r2 ∧ pendingHigh r2 < a.across + y) ∨
      ((a.accumulate r1 r2 x y q).across = pendingLow r2 ∧ a.across + y < pendingLow r2)) ∧
    (a.accumulate r1 r2 x y q).spill =
      (if (a.accumulate r1 r2 x y q).along ≠ a.along + x ∨ (a.accumulate r1 r2 x y q).across ≠ a.across + y then
        satInc 15 a.spill else a.spill) ∧
    (a.accumulate r1 r2 x y q).gap = a.gap ∧
    (a.accumulate r1 r2 x y q).minQuality = if q < a.minQuality then q else a.minQuality

/-- R71 to R78: a MOTION READ with an options bit other than bit 0 is refused, and no account is read or changed. Any
other composes a report of the selected channels in ascending order, as many as fit, with the clamped amounts, and
changes no account. -/
def Obligations.MotionReadComposesItsReport : Prop :=
  ∀ (l : LinkId) (mask options : Byte) (rest : List Request) (s s1 : State),
    atComposition l (.motionRead mask options) rest s s1 →
    (options ≠ 0 → options ≠ 1 →
      exec (.motionRead l mask options) s =
        .next (renewLease l (send l (shortReply .result 0x10 6) (popped l rest s1)))) ∧
    (options = 0 ∨ options = 1 → settingsLegal s1 →
      ∃ t lines, exec (.motionRead l mask options) s = .next t ∧
      t.views = upd s1.views l (fun v => { v with report := some lines }) ∧
      (lines.map (·.channel)).Pairwise (· < ·) ∧
      (∀ ln ∈ lines, mask.getLsbD ln.channel.val = true ∧ ∃ a, s1.views[l].account? ln.channel = some a ∧
        ln.along = max (-widthLimit s1.views[l].settings.width) (min (widthLimit s1.views[l].settings.width) a.along) ∧
        ln.across = max (-widthLimit s1.views[l].settings.width) (min (widthLimit s1.views[l].settings.width) a.across) ∧
        ln.gap = a.gap ∧ ln.spill = a.spill ∧ ln.afterMin = 255 ∧ ¬(options = 1 ∧ a.unchanged = true)) ∧
      2 + lines.length * entrySize s1.views[l].settings.width s1.views[l].settings.includeAbsolute ≤
        s1.views[l].settings.maxReply ∧
      (∀ (c : ChannelId) (a : Account), mask.getLsbD c.val = true → s1.views[l].account? c = some a →
        ¬(options = 1 ∧ a.unchanged = true) → c ∉ lines.map (·.channel) →
        s1.views[l].settings.maxReply <
          2 + (lines.length + 1) * entrySize s1.views[l].settings.width s1.views[l].settings.includeAbsolute ∧
        ∀ ln ∈ lines, ln.channel < c) ∧
      t.links = upd s1.links l (fun k =>
        { k with
          queue := rest
          tx := .sending (longReply .motionReport (motionPayload s1 s1.views[l] mask (decide (options = 1)))) }) ∧
      t = { s1 with views := t.views, links := t.links, lease := (renewLease l s1).lease })

/-- R80 to R82, R148: at the delivery of a MOTION REPORT each line's amounts and counts are subtracted, the minimum
quality becomes the after-compose minimum, and the record is removed; then the next frame is composed. -/
def Obligations.MotionDeliveryConsumesItsLines : Prop :=
  ∀ (l : LinkId) (s : State) (lines : List ReportLine), isSending l .motionReport s →
    s.views[l].report = some lines → (lines.map (·.channel)).Nodup → ∃ u,
    exec (.replyDelivery l) s = .next (composeNext l u) ∧ u.views[l].report = none ∧
    (∀ ln ∈ lines, ∀ a, s.views[l].accounts[ln.channel] = some a → u.views[l].accounts[ln.channel] = some
      { along := a.along - ln.along, across := a.across - ln.across, gap := a.gap - ln.gap,
        spill := a.spill - ln.spill, minQuality := ln.afterMin }) ∧
    (∀ c : ChannelId, c ∉ lines.map (·.channel) → u.views[l].accounts[c] = s.views[l].accounts[c]) ∧
    u.views = upd s.views l (fun v => { v with accounts := u.views[l].accounts, report := none }) ∧
    u = { s with views := u.views, attention := u.attention }

/-- R59, R60, R111: a VIEW RESET clears the accounts, the ring, the dropped count, the notice and the marker, and keeps
the settings and every other view. -/
def Obligations.ViewResetClearsTheView : Prop :=
  ∀ (l : LinkId) (rest : List Request) (s s1 : State), atComposition l .viewReset rest s s1 → ∃ t,
    exec (.viewReset l) s = .next t ∧
    (∀ c : ChannelId, t.views[l].accounts[c] = s1.views[l].accounts[c].map fun _ =>
      { along := 0, across := 0, gap := 0, spill := 0, minQuality := 255 }) ∧
    t.views = upd s1.views l (fun v =>
      { v with accounts := t.views[l].accounts, leaseLost := false, lostAgain := false }) ∧
    t.rings = upd s1.rings l (fun g => { g with head := 0, count := 0, dropped := 0 }) ∧
    (∀ k < s1.rings[l].count, readSlot t.slots (slotBehindHead s1 l k) = none) ∧
    (∀ n : Nat, (∀ k < s1.rings[l].count, n ≠ slotBehindHead s1 l k) → readSlot t.slots n = readSlot s1.slots n) ∧
    t.links = upd s1.links l (fun k => { k with queue := rest, tx := .sending (shortReply .result 0x13 0) }) ∧
    t = { s1 with
      views := t.views, rings := t.rings, slots := t.slots, links := t.links, attention := t.attention
      lease := (renewLease l s1).lease }

/-! ## Capture reports -/

/-- R114, R115: a CAPTURE READ with n = 0 is refused. Any other takes records from the head, at most n and as far as max
reply allows, and takes the dropped count; the ring keeps its records and its count. -/
def Obligations.CaptureReadComposesItsReport : Prop :=
  ∀ (l : LinkId) (n : Byte) (rest : List Request) (s s1 : State), atComposition l (.captureRead n) rest s s1 →
    (n = 0 → exec (.captureRead l n) s =
      .next (renewLease l (send l (shortReply .result 0x11 6) (popped l rest s1)))) ∧
    (n ≠ 0 → settingsLegal s1 → ∃ t rs left, exec (.captureRead l n) s = .next t ∧
      ringRecords s1 l = rs ++ left ∧ rs.length ≤ n.toNat ∧
      2 + (rs.map recordSize).sum ≤ s1.views[l].settings.maxReply ∧
      (∀ r more, left = r :: more → rs.length < n.toNat →
        s1.views[l].settings.maxReply < 2 + (rs.map recordSize).sum + recordSize r) ∧
      t.rings = upd s1.rings l (fun g => { g with report := some { records := rs.length, dropped := g.dropped } }) ∧
      t.links = upd s1.links l (fun k =>
        { k with
          queue := rest
          tx := .sending (longReply .captureReport
            (capturePayload s1.rings[l].dropped (decide (rs.length < s1.rings[l].count)) rs)) }) ∧
      t = { s1 with rings := t.rings, links := t.links, lease := (renewLease l s1).lease })

/-- R118, R148: at the delivery of a CAPTURE REPORT the k records leave the head of the ring and d is subtracted; then
the next frame is composed. -/
def Obligations.CaptureDeliveryRemovesItsRecords : Prop :=
  ∀ (l : LinkId) (s : State) (rep : CaptureReported), isSending l .captureReport s →
    s.rings[l].report = some rep → ∃ u, exec (.replyDelivery l) s = .next (composeNext l u) ∧
    u.rings = upd s.rings l (fun g =>
      { head := (g.head + rep.records) % (8 * s.views[l].settings.ringLength), count := g.count - rep.records,
        dropped := g.dropped - rep.dropped, report := none }) ∧
    (∀ k < rep.records, readSlot u.slots (slotBehindHead s l k) = none) ∧
    (∀ n : Nat, (∀ k < rep.records, n ≠ slotBehindHead s l k) → readSlot u.slots n = readSlot s.slots n) ∧
    u = { s with rings := u.rings, slots := u.slots, attention := u.attention }

/-! ## The lease -/

/-- R123: LEASE ACQUIRE by the holder at execution. No view's notice changes. -/
def Obligations.LeaseAcquireFollowsTheHolder : Prop :=
  ∀ (l : LinkId) (rest : List Request) (s s1 : State), atComposition l .leaseAcquire rest s s1 → ∃ t,
    exec (.leaseAcquire l) s = .next t ∧
    (s1.lease.holder = none ∨ s1.lease.holder = some l →
      t.lease = { holder := some l, countdown := .running (100 * s1.settings.leaseTimeout) } ∧
      t.links = upd s1.links l (fun k => { k with queue := rest, tx := .sending (shortReply .result 0x20 0) })) ∧
    (∀ h, s1.lease.holder = some h → h ≠ l → t.lease = s1.lease ∧
      t.links = upd s1.links l (fun k => { k with queue := rest, tx := .sending (shortReply .result 0x20 1) })) ∧
    t = { s1 with lease := t.lease, links := t.links }

/-- R124: LEASE RELEASE by the holder at execution. It sets no notice. -/
def Obligations.LeaseReleaseFollowsTheHolder : Prop :=
  ∀ (l : LinkId) (rest : List Request) (s s1 : State), atComposition l .leaseRelease rest s s1 → ∃ t,
    exec (.leaseRelease l) s = .next t ∧
    (s1.lease.holder = some l → t.lease = { holder := none, countdown := .stopped } ∧
      t.links = upd s1.links l (fun k => { k with queue := rest, tx := .sending (shortReply .result 0x21 0) })) ∧
    (s1.lease.holder ≠ some l → t.lease = s1.lease ∧
      t.links = upd s1.links l (fun k => { k with queue := rest, tx := .sending (shortReply .result 0x21 2) })) ∧
    t = { s1 with lease := t.lease, links := t.links }

/-! ## The settings table -/

/-- R130: a SETTING READ answers the values of its run or its first failing check, and changes nothing but the reply and
the lease. -/
def Obligations.SettingReadAnswers : Prop :=
  ∀ (l : LinkId) (payload : List Byte) (rest : List Request) (s s1 : State),
    atComposition l (.settingRead payload) rest s s1 →
    (payload.length ≠ 3 → exec (.settingRead l payload) s =
      .next (renewLease l (send l (shortReply .result 0x40 8) (popped l rest s1)))) ∧
    (∀ a b n : Byte, payload = [a, b, n] → n = 0 ∨ 32 < n.toNat → exec (.settingRead l payload) s =
      .next (renewLease l (send l (shortReply .result 0x40 6) (popped l rest s1)))) ∧
    (∀ a b n : Byte, payload = [a, b, n] → 1 ≤ n.toNat → n.toNat ≤ 32 →
      resolveRun (256 * a.toNat + b.toNat) n.toNat = none → exec (.settingRead l payload) s =
      .next (renewLease l (send l (shortReply .result 0x40 4) (popped l rest s1)))) ∧
    (∀ (a b n : Byte) (run : List Setting), payload = [a, b, n] → 1 ≤ n.toNat → n.toNat ≤ 32 →
      resolveRun (256 * a.toNat + b.toNat) n.toNat = some run → exec (.settingRead l payload) s =
      .next (renewLease l (send l
        (longReply .settingData (run.flatMap fun x => be16 (readSetting s1 l x))) (popped l rest s1))))

/-- R131: the six checks of a SETTING WRITE, each with its code, in order; a refused write is answered with its code and
applies nothing. -/
def Obligations.WriteChecksRefuseInOrder : Prop :=
  (∀ (l : LinkId) (payload : List Byte) (s : State),
    (payload.length % 2 = 1 ∨ payload.length < 4 ∨ 66 < payload.length →
      checkWrite s l payload = .error .badRequest) ∧
    ∀ (a : Nat) (values : List Word), parseWrite payload = some (a, values) →
      (resolveRun a values.length = none → checkWrite s l payload = .error .badAddress) ∧
      ∀ run, resolveRun a values.length = some run →
        ((∃ x ∈ run, x.access = .readOnly) → checkWrite s l payload = .error .readOnly) ∧
        ((∀ x ∈ run, x.access ≠ .readOnly) →
          ((∃ x ∈ run, x.access = .shared) → s.lease.holder ≠ some l →
            checkWrite s l payload = .error .noLease) ∧
          ((∀ x ∈ run, x.access ≠ .shared) ∨ s.lease.holder = some l →
            (writeRun (candidateOf s l) run values = none → checkWrite s l payload = .error .outOfRange) ∧
            ∀ k, writeRun (candidateOf s l) run values = some k →
              (combinationsLegal run k = false → checkWrite s l payload = .error .outOfRange) ∧
              (combinationsLegal run k = true →
                (touchesRing run = true → overlapsOther s.views l k.own.ringBase k.own.ringLength = true →
                  checkWrite s l payload = .error .overlap) ∧
                (touchesRing run = false ∨ overlapsOther s.views l k.own.ringBase k.own.ringLength = false →
                  checkWrite s l payload = .ok { run := run, left := k }))))) ∧
  ∀ (l : LinkId) (payload : List Byte) (rest : List Request) (s s1 : State) (code : ResultCode),
    atComposition l (.settingWrite payload) rest s s1 → checkWrite s1 l payload = .error code →
    exec (.settingWrite l payload) s =
      .next (renewLease l (send l (shortReply .result 0x41 code.code) (popped l rest s1)))

/-- R131, R133: an accepted SETTING WRITE is held by the settings table from its execution, answered OK, and renews the
writer's lease with the timeout it has just written. One that disables no channel leaves the captures in flight as they
are, and one that does not place a ring either leaves the capture memory as it is. -/
def Obligations.AcceptedWriteIsHeld : Prop :=
  ∀ (l : LinkId) (payload : List Byte) (rest : List Request) (s s1 : State) (w : AcceptedWrite),
    atComposition l (.settingWrite payload) rest s s1 → checkWrite s1 l payload = .ok w → ∃ t,
    exec (.settingWrite l payload) s = .next t ∧ t.settings = w.left.shared ∧
    t.views = upd s1.views l (fun v => { v with accounts := t.views[l].accounts, settings := w.left.own }) ∧
    t.links = upd s1.links l (fun k => { k with queue := rest, tx := .sending (shortReply .result 0x41 0) }) ∧
    t.lease = (if s1.lease.holder = some l then
      { holder := some l, countdown := .running (100 * w.left.shared.leaseTimeout) } else s1.lease) ∧
    t.bus.pointer = s1.bus.pointer ∧ t.bus.streak = s1.bus.streak ∧
    (∀ i : TriggerId,
      (∀ c : ChannelId, s1.settings.channels[c].enable = true → w.left.shared.channels[c].enable = true) →
      t.triggers[i].capture = s1.triggers[i].capture) ∧
    (Setting.own .ringBase ∉ w.run → Setting.own .ringLength ∉ w.run →
      (∀ c : ChannelId, s1.settings.channels[c].enable = true → w.left.shared.channels[c].enable = true) →
      t.rings = s1.rings ∧ t.slots = s1.slots) ∧
    (∀ c : ChannelId, t.channels[c].movementAlong = s1.channels[c].movementAlong ∧
      t.channels[c].movementAcross = s1.channels[c].movementAcross ∧
      t.channels[c].offsetAlong = s1.channels[c].offsetAlong ∧
      t.channels[c].offsetAcross = s1.channels[c].offsetAcross) ∧
    t = { s1 with
      settings := t.settings, views := t.views, links := t.links, lease := t.lease, channels := t.channels
      polls := t.polls, bus := t.bus, triggers := t.triggers, slots := t.slots, rings := t.rings
      attention := t.attention }

/-- R130, R132, R164: each value of an accepted write, of 1 to 32 consecutive addresses, reads back as written at its
own address. -/
def Obligations.WrittenSettingReadsBack : Prop :=
  ∀ (l : LinkId) (payload : List Byte) (rest : List Request) (s s1 : State) (a : Nat) (values : List Word)
    (w : AcceptedWrite),
    atComposition l (.settingWrite payload) rest s s1 → parseWrite payload = some (a, values) →
    checkWrite s1 l payload = .ok w → ∃ t, exec (.settingWrite l payload) s = .next t ∧
    ∀ (k : Nat) (value : Word), values[k]? = some value →
      ∃ x, resolve (a + k) = some x ∧ readSetting t l x = value

/-- R4, R45: an accepted write that changes a channel's enable from 0 to 1. -/
def Obligations.ChannelEnableStartsIdentification : Prop :=
  ∀ (l : LinkId) (c : ChannelId) (payload : List Byte) (rest : List Request) (s s1 : State) (w : AcceptedWrite),
    atComposition l (.settingWrite payload) rest s s1 → checkWrite s1 l payload = .ok w →
    s1.settings.channels[c].enable = false → w.left.shared.channels[c].enable = true → ∃ t,
    exec (.channelEnable l c) s = .next t ∧
    t.channels = upd s1.channels c (fun ch => { ch with state := .identify, faults := 0, lastCause := .none }) ∧
    t.polls[c].due = true ∧ t.polls[c].countdown = s1.polls[c].countdown ∧
    t.polls[c].priority = s1.polls[c].priority ∧ (∀ d : ChannelId, d ≠ c → t.polls[d] = s1.polls[d]) ∧
    t.links = upd s1.links l (fun k => { k with queue := rest, tx := .sending (shortReply .result 0x41 0) }) ∧
    t.settings = w.left.shared ∧
    t = { s1 with
      channels := t.channels, polls := t.polls, settings := t.settings, attention := t.attention, links := t.links
      lease := t.lease }

/-- R5, R30, R45, R99, R102, R112: an accepted write that changes a channel's enable from 1 to 0. Every entry still
waiting on the channel is filled STALE with its absolute positions, and a capture left with no unfilled entry is no
longer in flight: its finished record is handed over, in ascending trigger number, to every view that selects the
trigger, and no other slot or ring changes. -/
def Obligations.ChannelDisableStopsTheChannel : Prop :=
  ∀ (l : LinkId) (c : ChannelId) (payload : List Byte) (rest : List Request) (s s1 : State) (w : AcceptedWrite),
    atComposition l (.settingWrite payload) rest s s1 → checkWrite s1 l payload = .ok w →
    s1.settings.channels[c].enable = true → w.left.shared.channels[c].enable = false → ∃ t,
    exec (.channelDisable l c) s = .next t ∧
    t.channels = upd s1.channels c (fun ch => { ch with state := .off, faults := 0 }) ∧
    t.polls[c].due = false ∧ t.polls[c].priority = false ∧ t.polls[c].countdown = .stopped ∧
    (∀ d : ChannelId, d ≠ c → t.polls[d] = s1.polls[d]) ∧
    t.bus = { s1.bus with
      exchange := s1.bus.exchange.map fun e => if e.channel = c then { e with discard := true } else e } ∧
    (∃ filled : TriggerId → Option Capture,
      (∀ i : TriggerId, filled i = s1.triggers[i].capture.map fun cap =>
        { cap with
          entries := cap.entries.map fun en =>
            if en.channel = c ∧ en.stage.waiting = true then
              { en with
                stage := .filled .stale (s1.channels[c].movementAlong + s1.channels[c].offsetAlong)
                  (s1.channels[c].movementAcross + s1.channels[c].offsetAcross) }
            else en }) ∧
      (∀ i : TriggerId, t.triggers[i] = { s1.triggers[i] with capture := stillInFlight (filled i) }) ∧
      (ringsDisjoint s1 → ∃ rs, finishedRecords filled rs ∧ handsOver rs s1 t)) ∧
    t.links = upd s1.links l (fun k => { k with queue := rest, tx := .sending (shortReply .result 0x41 0) }) ∧
    t.settings = w.left.shared ∧
    t = { s1 with
      channels := t.channels, polls := t.polls, bus := t.bus, triggers := t.triggers, slots := t.slots
      rings := t.rings, settings := t.settings, attention := t.attention, links := t.links, lease := t.lease }

/-- R47, R48: an accepted write of a forced tier sets the tier at once, and the idle count stays; a release keeps the
tier and zeroes the idle count. Neither reloads the countdown of a channel whose enable it leaves. -/
def Obligations.ForcedTierActsAtOnce : Prop :=
  ∀ (l : LinkId) (c : ChannelId) (payload : List Byte) (rest : List Request) (s s1 : State) (w : AcceptedWrite),
    atComposition l (.settingWrite payload) rest s s1 → checkWrite s1 l payload = .ok w →
    Setting.channel c .forcedTier ∈ w.run →
    (∀ tier, w.left.shared.channels[c].forcedTier = some tier → ∃ t,
      exec (.forcedTierSet l c tier) s = .next t ∧
      t.polls[c].tier = tier ∧ t.polls[c].idleCount = s1.polls[c].idleCount ∧
      (w.left.shared.channels[c].enable = s1.settings.channels[c].enable →
        t.polls = upd s1.polls c (fun p => { p with tier := tier }) ∧ t.channels = s1.channels) ∧
      t.settings = w.left.shared) ∧
    (∀ old, s1.settings.channels[c].forcedTier = some old → w.left.shared.channels[c].forcedTier = none → ∃ t,
      exec (.forcedTierRelease l c) s = .next t ∧
      t.polls[c].tier = s1.polls[c].tier ∧ t.polls[c].idleCount = 0 ∧
      (w.left.shared.channels[c].enable = s1.settings.channels[c].enable →
        t.polls = upd s1.polls c (fun p => { p with idleCount := 0 }) ∧ t.channels = s1.channels) ∧
      t.settings = w.left.shared)

/-- R90: an accepted write that changes a trigger's enable starts or stops its watch and leaves a capture in flight
untouched. That a confirmation still owed is dropped with the run is the model's choice (log 33). -/
def Obligations.TriggerEnableStartsAndStopsTheWatch : Prop :=
  ∀ (l : LinkId) (i : TriggerId) (payload : List Byte) (rest : List Request) (s s1 : State) (w : AcceptedWrite),
    atComposition l (.settingWrite payload) rest s s1 → checkWrite s1 l payload = .ok w →
    (s1.settings.triggers[i].enable = false → w.left.shared.triggers[i].enable = true → ∃ t,
      exec (.triggerEnable l i) s = .next t ∧
      t.triggers = upd s1.triggers i (fun g => { g with watch := .starting, run := 0, confirmOwed := false }) ∧
      t.settings = w.left.shared ∧
      t = { s1 with
        triggers := t.triggers, settings := t.settings, attention := t.attention, links := t.links
        lease := t.lease }) ∧
    (s1.settings.triggers[i].enable = true → w.left.shared.triggers[i].enable = false → ∃ t,
      exec (.triggerDisable l i) s = .next t ∧
      t.triggers = upd s1.triggers i (fun g => { g with watch := .off, run := 0, confirmOwed := false }) ∧
      t.settings = w.left.shared ∧
      t = { s1 with
        triggers := t.triggers, settings := t.settings, attention := t.attention, links := t.links
        lease := t.lease })

/-- R57: an accepted change of the subscription mask creates and removes accounts channel by channel. -/
def Obligations.SubscriptionChangeMakesAndRemovesAccounts : Prop :=
  ∀ (l : LinkId) (payload : List Byte) (rest : List Request) (s s1 : State) (w : AcceptedWrite),
    atComposition l (.settingWrite payload) rest s s1 → checkWrite s1 l payload = .ok w →
    w.left.own.mask ≠ s1.views[l].settings.mask → ∃ t,
    exec (.subscriptionChange l w.left.own.mask) s = .next t ∧
    (∀ c : ChannelId,
      (s1.views[l].settings.mask.getLsbD c.val = false → w.left.own.mask.getLsbD c.val = true →
        t.views[l].accounts[c] = some { along := 0, across := 0, gap := 0, spill := 0, minQuality := 255 }) ∧
      (w.left.own.mask.getLsbD c.val = false → t.views[l].accounts[c] = none) ∧
      (s1.views[l].settings.mask.getLsbD c.val = true → w.left.own.mask.getLsbD c.val = true →
        t.views[l].accounts[c] = s1.views[l].accounts[c])) ∧
    t.views = upd s1.views l (fun v => { v with accounts := t.views[l].accounts, settings := w.left.own }) ∧
    t = { s1 with
      views := t.views, rings := t.rings, slots := t.slots, attention := t.attention, links := t.links
      lease := t.lease }

/-- R108, R110: an accepted placement claim empties the ring and zeroes the dropped count, and is in range and clear of
the other views' rings. -/
def Obligations.RingPlacementEmptiesTheRing : Prop :=
  ∀ (l : LinkId) (payload : List Byte) (rest : List Request) (s s1 : State) (w : AcceptedWrite),
    atComposition l (.settingWrite payload) rest s s1 → checkWrite s1 l payload = .ok w →
    Setting.own .ringBase ∈ w.run ∨ Setting.own .ringLength ∈ w.run → ∃ t,
    exec (.ringPlacement l w.left.own.ringBase w.left.own.ringLength) s = .next t ∧
    t.rings = upd s1.rings l (fun g => { g with head := 0, count := 0, dropped := 0 }) ∧
    (∀ k < s1.rings[l].count, readSlot t.slots (slotBehindHead s1 l k) = none) ∧
    (∀ n : Nat, (∀ k < s1.rings[l].count, n ≠ slotBehindHead s1 l k) → readSlot t.slots n = readSlot s1.slots n) ∧
    t.views[l].settings = w.left.own ∧ w.left.own.ringBase + w.left.own.ringLength ≤ 16 ∧
    (∀ v : LinkId, v ≠ l → ∀ n : Nat,
      8 * w.left.own.ringBase ≤ n → n < 8 * (w.left.own.ringBase + w.left.own.ringLength) →
      ¬(8 * s1.views[v].settings.ringBase ≤ n ∧
        n < 8 * (s1.views[v].settings.ringBase + s1.views[v].settings.ringLength))) ∧
    t = { s1 with
      views := t.views, rings := t.rings, slots := t.slots, attention := t.attention, links := t.links
      lease := t.lease }

/-- R69: an accepted write of attention settings leaves the line at the level the new settings call for. A change of
mode makes the pulse timer QUIET, with no pulse for a condition already true; under a PULSE mode that is kept the timer
moves by a false-to-true change alone. -/
def Obligations.AttentionSettingsActAtOnce : Prop :=
  ∀ (l : LinkId) (payload : List Byte) (rest : List Request) (s s1 : State) (w : AcceptedWrite),
    atComposition l (.settingWrite payload) rest s s1 → checkWrite s1 l payload = .ok w →
    Setting.own .attentionMode ∈ w.run ∨ Setting.own .polarity ∈ w.run ∨ Setting.own .sources ∈ w.run → ∃ t,
    exec (.attentionSettingsWrite l w.left.own.attentionMode w.left.own.polarity w.left.own.sources) s = .next t ∧
    t.views[l].settings = w.left.own ∧ t.attention[l].condition = attentionCondition t l ∧
    (w.left.own.attentionMode ≠ s1.views[l].settings.attentionMode → t.attention[l].timer = .quiet) ∧
    (w.left.own.attentionMode = .off → t.attention[l].line = .output (polarityLevel w.left.own.polarity false)) ∧
    (w.left.own.attentionMode = .level →
      t.attention[l].line = .output (polarityLevel w.left.own.polarity (attentionCondition t l))) ∧
    (w.left.own.attentionMode = .pulse →
      t.attention[l].line = .output (polarityLevel w.left.own.polarity
        (decide (t.attention[l].timer = .pulsing ∨ t.attention[l].timer = .pulsingOwed))) ∧
      (s1.views[l].settings.attentionMode = .pulse → t.attention[l].timer =
        if s1.attention[l].condition = false ∧ attentionCondition t l = true then s1.attention[l].timer.rise
        else s1.attention[l].timer)) ∧
    t = { s1 with
      views := t.views, rings := t.rings, slots := t.slots, attention := t.attention, links := t.links
      lease := t.lease }

/-- R15, R134: the checks of a PRESET in order; a refused one changes no offset. An accepted one gives each selected axis
exactly the given absolute value, and moves no movement count, no other channel and no view. -/
def Obligations.PresetSetsThePosition : Prop :=
  ∀ (l : LinkId) (payload : List Byte) (rest : List Request) (s s1 : State),
    atComposition l (.preset payload) rest s s1 →
    (payload.length ≠ 10 → exec (.preset l payload) s =
      .next (renewLease l (send l (shortReply .result 0x42 8) (popped l rest s1)))) ∧
    ∀ p : PresetOperands, parsePreset payload = some p →
    (s1.lease.holder ≠ some l → exec (.preset l payload) s =
      .next (renewLease l (send l (shortReply .result 0x42 3) (popped l rest s1)))) ∧
    (s1.lease.holder = some l → 8 ≤ p.channel.toNat ∨ p.axes = 0 ∨ 4 ≤ p.axes.toNat →
      exec (.preset l payload) s =
        .next (renewLease l (send l (shortReply .result 0x42 6) (popped l rest s1)))) ∧
    ∀ c : ChannelId, s1.lease.holder = some l → p.channel = BitVec.ofNat 8 c.val →
      p.axes = 1 ∨ p.axes = 2 ∨ p.axes = 3 → ∃ t, exec (.preset l payload) s = .next t ∧
      (p.axes ≠ 2 → t.channels[c].absoluteAlong = p.along) ∧
      (p.axes = 2 → t.channels[c].offsetAlong = s1.channels[c].offsetAlong) ∧
      (p.axes ≠ 1 → t.channels[c].absoluteAcross = p.across) ∧
      (p.axes = 1 → t.channels[c].offsetAcross = s1.channels[c].offsetAcross) ∧
      t.channels = upd s1.channels c (fun ch =>
        { ch with offsetAlong := t.channels[c].offsetAlong, offsetAcross := t.channels[c].offsetAcross }) ∧
      t.links = upd s1.links l (fun k => { k with queue := rest, tx := .sending (shortReply .result 0x42 0) }) ∧
      t.lease = { holder := some l, countdown := .running (100 * s1.settings.leaseTimeout) } ∧
      t = { s1 with channels := t.channels, links := t.links, lease := t.lease }

/-! ## Client links -/

/-- R162: the header check code passes an undamaged header as it is, corrects any one inverted bit of the header and of
check bits 0 to 5, and refuses any two of them, and a check byte with bit 6 or 7 set. -/
def Obligations.HeaderCodeCorrectsOneBitAndRefusesTwo : Prop :=
  ∀ d : BitVec 24, decodeHeader d (checkByte d) = .intact ∧
    (∀ i < 24, decodeHeader (d ^^^ BitVec.twoPow 24 i) (checkByte d) = .corrected d) ∧
    (∀ j < 6, decodeHeader d (checkByte d ^^^ BitVec.twoPow 8 j) = .corrected d) ∧
    (∀ i < 24, ∀ i' < 24, i ≠ i' →
      decodeHeader (d ^^^ BitVec.twoPow 24 i ^^^ BitVec.twoPow 24 i') (checkByte d) = .uncorrectable) ∧
    (∀ i < 24, ∀ j < 6,
      decodeHeader (d ^^^ BitVec.twoPow 24 i) (checkByte d ^^^ BitVec.twoPow 8 j) = .uncorrectable) ∧
    (∀ j < 6, ∀ j' < 6, j ≠ j' →
      decodeHeader d (checkByte d ^^^ BitVec.twoPow 8 j ^^^ BitVec.twoPow 8 j') = .uncorrectable) ∧
    ∀ check : Byte, check.getLsbD 6 = true ∨ check.getLsbD 7 = true → decodeHeader d check = .uncorrectable

/-- 11.1, R139 to R144, R161 to R163: the frame of every request whose payload a frame can carry, received byte by byte,
joins the tail of the queue as that request, is counted as accepted, and renews the holder's lease. -/
def Obligations.ReceivedFrameIsTheRequest : Prop :=
  ∀ (l : LinkId) (r : Request) (s : State), sendable r = true → listening l s → s.links[l].queue.length < 4 →
    receiveAll l (frameOf r) s = .next (renewLease l
      { s with
        links := upd s.links l fun k =>
          { k with accepted := satInc 65535 k.accepted, queue := k.queue ++ [r] } })

/-- R144, R146, R122: an accepted TURN gives the line to the AM48 and puts the transmitter in GUARD; a NOOP and a FILL
are counted and do nothing more; a request that arrives with four in the queue is discarded and QUEUE_FULL recorded.
Each renews the holder's lease. That TURN, NOOP and FILL stand for the arrival of the whole frame is the model's choice
(log 7). -/
def Obligations.FramesThatJoinNoQueue : Prop :=
  (∀ (l : LinkId) (p0 p1 : Byte) (s : State), listening l s →
    exec (.turn l p0 p1) s = .next (renewLease l
      { s with
        links := upd s.links l fun k =>
          { k with accepted := satInc 65535 k.accepted, owner := .am48, tx := .guard } }) ∧
    exec (.noop l p0 p1) s = .next (renewLease l
      { s with links := upd s.links l fun k => { k with accepted := satInc 65535 k.accepted } })) ∧
  (∀ (l : LinkId) (payload : List Byte) (s : State), listening l s → payloadOk payload = true →
    exec (.fill l payload) s = .next (renewLease l
      { s with links := upd s.links l fun k => { k with accepted := satInc 65535 k.accepted } })) ∧
  ∀ (l : LinkId) (r : Request) (s : State), sendable r = true → listening l s → s.links[l].queue.length = 4 →
    receiveAll l (frameOf r) s = .next (renewLease l
      { s with
        links := upd s.links l fun k =>
          { k with discarded := satInc 65535 k.discarded, summary := k.summary ||| 0x100 } })

/-- R137: a character is a start bit at space, the eight data bits with the least significant first, and a stop bit at
mark. R139, R140, R143: while the client owns the line, a space that is no start bit is ignored, a character without
its stop bit is left to FRAMING or BREAK, and any other is its byte, which begins a frame or carries it on; in DISCARD,
and in the wait for mark (log 15), it is not examined. R136, R137, R151: while the AM48 owns the line it compares what
it reads with what it sends: its own characters are read back, space read in a bit sent as mark is contention, and the
AM48 sends on. The fourth byte is also the event FRAME_HEADER_RECEIVED and the second CRC byte LONG_FRAME_RECEIVED
(log 8). A payload whose CRC differs is discarded. That RECEIVED_BYTE is also the reading back of the AM48's own
characters, and a character counts by the ownership at its stop bit, is the model's choice (log 12, log 32). -/
def Obligations.ReceiverTakesBytes : Prop :=
  (∀ b : Byte, (character b).getLsbD 0 = false ∧ (character b).getLsbD 9 = true ∧
    ∀ n < 8, (character b).getLsbD (n + 1) = b.getLsbD n) ∧
  ∀ (l : LinkId) (b : Byte) (s : State), operating s l = true →
    (∀ line : Samples 10, s.links[l].owner = .client →
      (line.getLsbD 0 = true ∨ line.getLsbD 9 = false → exec (.receivedByte l line) s = .next s) ∧
      (line.getLsbD 0 = false → line.getLsbD 9 = true →
        exec (.receivedByte l line) s = exec (.receivedByte l (character (line.extractLsb' 1 8))) s)) ∧
    (∀ line : Samples 10, s.links[l].owner = .am48 →
      (∀ (f : TxFrame) (x : Byte) (more : List Byte), s.links[l].tx = .sending f → f.left = x :: more →
        exec (.receivedByte l line) s = .next
          { s with
            links := upd s.links l fun k =>
              { k with
                tx := .sending { f with left := more }
                summary := if line &&& character x = character x then k.summary else k.summary ||| 0x200 } }) ∧
      (s.links[l].tx = .idle ∨ s.links[l].tx = .guard ∨
          (∃ f, s.links[l].tx = .sending f ∧ f.left = []) →
        (line.getLsbD 0 = true → exec (.receivedByte l line) s = .next s) ∧
        (line.getLsbD 0 = false → exec (.receivedByte l line) s = .next
          { s with links := upd s.links l fun k => { k with summary := k.summary ||| 0x200 } }))) ∧
    (s.links[l].owner = .client →
    (s.links[l].receiver = .idle → exec (.receivedByte l (character b)) s = .next
      { s with links := upd s.links l fun k => { k with receiver := .header [b] } }) ∧
    (∀ got : List Byte, s.links[l].receiver = .header got → got.length = 1 ∨ got.length = 2 →
      exec (.receivedByte l (character b)) s = .next
        { s with links := upd s.links l fun k => { k with receiver := .header (got ++ [b]) } }) ∧
    (∀ x y z : Byte, s.links[l].receiver = .header [x, y, z] →
      exec (.receivedByte l (character b)) s = exec (.frameHeaderReceived l b) s) ∧
    (∀ (kind : Byte) (n : Nat) (got : List Byte) (skip : Bool), s.links[l].receiver = .payload kind n got skip →
      exec (.receivedByte l (character b)) s = .next
        { s with
          links := upd s.links l fun k =>
            { k with
              receiver := if got.length + 1 < n then .payload kind n (got ++ [b]) skip
                else .footer kind (got ++ [b]) none skip } }) ∧
    (∀ (kind : Byte) (payload : List Byte) (skip : Bool), s.links[l].receiver = .footer kind payload none skip →
      exec (.receivedByte l (character b)) s = .next
        { s with links := upd s.links l fun k => { k with receiver := .footer kind payload (some b) skip } }) ∧
    (∀ (kind hi : Byte) (payload : List Byte) (skip : Bool),
      s.links[l].receiver = .footer kind payload (some hi) skip →
      exec (.receivedByte l (character b)) s = exec (.longFrameReceived l b) s ∧
      (skip = true → exec (.longFrameReceived l b) s = .next
        { s with links := upd s.links l fun k => { k with receiver := .idle } }) ∧
      (skip = false → hi ++ b ≠ crc payload → exec (.longFrameReceived l b) s = .next
        { s with
          links := upd s.links l fun k =>
            { k with
              receiver := .idle
              summary := k.summary ||| 0x010
              discarded := satInc 65535 k.discarded } }) ∧
      (skip = false → hi ++ b = crc payload → kind = 0x43 → exec (.longFrameReceived l b) s = .next
        { s with
          links := upd s.links l fun k => { k with receiver := .idle, accepted := satInc 65535 k.accepted } }) ∧
      (skip = false → hi ++ b = crc payload → ∀ r, longRequest? kind payload = some r → s.links[l].queue.length < 4 →
        exec (.longFrameReceived l b) s = .next
        { s with
          links := upd s.links l fun k =>
            { k with
              receiver := .idle
              accepted := satInc 65535 k.accepted
              queue := k.queue ++ [r] } })) ∧
    (s.links[l].receiver = .discard ∨ (∃ taken, s.links[l].receiver = .awaitMark taken) →
      exec (.receivedByte l (character b)) s = .next s))

/-- R139 to R141, R122: the fourth byte of a frame decides it. An uncorrectable header is discarded; a corrected one is
recorded and counted, and goes on in its corrected form; a bad length, an unlisted kind and a part-to-client kind are
discarded, a long frame of such a kind after it has been skipped by its length. -/
def Obligations.HeaderDecidesTheFrame : Prop :=
  ∀ (l : LinkId) (x y z check : Byte) (s : State), operating s l = true → s.links[l].owner = .client →
    s.links[l].receiver = .header [x, y, z] →
    (decodeHeader (headerBits x y z) check = .uncorrectable →
      exec (.frameHeaderReceived l check) s = .next
        { s with
          links := upd s.links l fun k =>
            { k with
              receiver := .discard
              summary := k.summary ||| 0x008
              discarded := satInc 65535 k.discarded } }) ∧
    (∀ h, decodeHeader (headerBits x y z) check = .corrected h →
      exec (.frameHeaderReceived l check) s = .next (renewLease l
        { s with
          links := upd s.links l fun k =>
            Link.headerDecided { k with summary := k.summary ||| 0x004, corrected := satInc 65535 k.corrected } h })) ∧
    (decodeHeader (headerBits x y z) check = .intact →
      (isShortKind x = true → x ∉ ([0x01, 0x02, 0x10, 0x11, 0x12, 0x13, 0x20, 0x21] : List Byte) →
        exec (.frameHeaderReceived l check) s = .next (renewLease l
          { s with
            links := upd s.links l fun k =>
              { k with
                receiver := .idle
                summary := k.summary ||| (if x.getLsbD 7 = true then 0x080 else 0x040)
                discarded := satInc 65535 k.discarded } })) ∧
      (isShortKind x = false → 256 * y.toNat + z.toNat = 0 ∨ 256 < 256 * y.toNat + z.toNat →
        exec (.frameHeaderReceived l check) s = .next (renewLease l
          { s with
            links := upd s.links l fun k =>
              { k with
                receiver := .discard
                summary := k.summary ||| 0x020
                discarded := satInc 65535 k.discarded } })) ∧
      (isShortKind x = false → 1 ≤ 256 * y.toNat + z.toNat → 256 * y.toNat + z.toNat ≤ 256 →
        (x ∈ ([0x40, 0x41, 0x42, 0x43] : List Byte) →
          exec (.frameHeaderReceived l check) s = .next (renewLease l
            { s with
              links := upd s.links l fun k =>
                { k with receiver := .payload x (256 * y.toNat + z.toNat) [] false } })) ∧
        (x ∉ ([0x40, 0x41, 0x42, 0x43] : List Byte) →
          exec (.frameHeaderReceived l check) s = .next (renewLease l
            { s with
              links := upd s.links l fun k =>
                { k with
                  receiver := .payload x (256 * y.toNat + z.toNat) [] true
                  summary := k.summary ||| (if x.getLsbD 7 = true then 0x080 else 0x040)
                  discarded := satInc 65535 k.discarded } }))))

/-- R142, R143, R151, R152, R160: the inter-byte timeout, the framing error, the end of DISCARD, contention and the
return to mark. A framing error while the AM48 owns the line is contention (R138, log 14). -/
def Obligations.LineEventsMoveTheReceiver : Prop :=
  ∀ (l : LinkId) (s : State), operating s l = true →
    (∀ got, s.links[l].receiver = .header got → exec (.frameTimeout l) s = .next
      { s with
        links := upd s.links l fun k =>
          { k with receiver := .idle, summary := k.summary ||| 0x002, discarded := satInc 65535 k.discarded } }) ∧
    (∀ kind n got payload first skip,
      s.links[l].receiver = .payload kind n got skip ∨ s.links[l].receiver = .footer kind payload first skip →
      exec (.frameTimeout l) s = .next
        { s with
          links := upd s.links l fun k =>
            { k with
              receiver := .idle
              summary := k.summary ||| 0x002
              discarded := if skip then k.discarded else satInc 65535 k.discarded } } ∧
      (s.links[l].owner = .client → exec (.framing l) s = .next
        { s with
          links := upd s.links l fun k =>
            { k with
              receiver := .discard
              summary := k.summary ||| 0x001
              discarded := if skip then k.discarded else satInc 65535 k.discarded } })) ∧
    (∀ got, s.links[l].owner = .client → s.links[l].receiver = .idle ∨ s.links[l].receiver = .header got →
      exec (.framing l) s = .next
        { s with
          links := upd s.links l fun k =>
            { k with receiver := .discard, summary := k.summary ||| 0x001, discarded := satInc 65535 k.discarded } }) ∧
    (s.links[l].owner = .client → s.links[l].receiver = .discard ∨ (∃ taken, s.links[l].receiver = .awaitMark taken) →
      exec (.framing l) s = .next s) ∧
    (s.links[l].receiver = .discard → exec (.discardEnd l) s = .next
      { s with links := upd s.links l fun k => { k with receiver := .idle } }) ∧
    (s.links[l].owner = .am48 →
      exec (.contention l) s = .next
        { s with links := upd s.links l fun k => { k with summary := k.summary ||| 0x200 } } ∧
      exec (.framing l) s = exec (.contention l) s) ∧
    (∀ taken, s.links[l].receiver = .awaitMark taken → exec (.returnToMark l) s = .next
      { s with links := upd s.links l fun k => { k with receiver := .idle } })

/-- R152, R85, R119, R125, R148, R155: a break ends the turn, empties the queue, leaves the summary {BREAK}, aborts the
frame in transmission without consuming anything, and frees the lease of its link with the notice set. Taken just after a
delivery that it falls together with, it finds that frame delivered and no frame in transmission, and no request of the
queue is executed. The receiver's wait for mark is the model's own value (log 15), and so is BREAK's operand (log 31). -/
def Obligations.BreakEndsTheTurn : Prop :=
  (∀ (l : LinkId) (s : State), operating s l = true → s.links[l].receiver ≠ .awaitMark true → ∃ t,
    exec (.lineBreak ⟨l, .alone⟩) s = .next t ∧
    t.links = upd s.links l (fun k =>
      { k with
        owner := .client
        receiver := .awaitMark true
        queue := []
        summary := 0x400
        breaks := satInc 255 k.breaks
        tx := .idle
        status := t.links[l].status }) ∧
    (∀ k : LinkId, k ≠ l → t.views[k] = s.views[k] ∧ t.rings[k] = s.rings[k]) ∧
    t.views[l].accounts = s.views[l].accounts ∧ t.views[l].settings = s.views[l].settings ∧
    t.rings[l] = { s.rings[l] with report := t.rings[l].report } ∧
    (isSending l .motionReport s → t.views[l].report = none) ∧
    (isSending l .captureReport s → t.rings[l].report = none) ∧
    (isSending l .linkStatusData s → t.links[l].status = none ∧ t.views[l].lostAgain = false) ∧
    (s.lease.holder = some l → t.lease = { holder := none, countdown := .stopped } ∧ t.views[l].leaseLost = true) ∧
    (s.lease.holder ≠ some l → t.lease = s.lease ∧ t.views[l].leaseLost = s.views[l].leaseLost) ∧
    t = { s with links := t.links, views := t.views, rings := t.rings, lease := t.lease, attention := t.attention }) ∧
  (∀ (l : LinkId) (s : State) (f : TxFrame), operating s l = true → s.links[l].receiver ≠ .awaitMark true →
    s.links[l].tx = .sending f → ∃ d t, d = deliverFrame l f.kind s ∧ exec (.lineBreak ⟨l, .afterDelivery⟩) s = .next t ∧
    t.links = upd d.links l (fun k =>
      { k with
        owner := .client
        receiver := .awaitMark true
        queue := []
        summary := 0x400
        breaks := satInc 255 k.breaks
        tx := .idle }) ∧
    (∀ k : LinkId, k ≠ l → t.views[k] = d.views[k]) ∧
    t.views[l] = { d.views[l] with leaseLost := t.views[l].leaseLost, lostAgain := t.views[l].lostAgain } ∧
    (d.links[l].status = none → t.views[l].lostAgain = d.views[l].lostAgain) ∧
    (s.lease.holder = some l → t.lease = { holder := none, countdown := .stopped } ∧ t.views[l].leaseLost = true) ∧
    (s.lease.holder ≠ some l → t.lease = s.lease ∧ t.views[l] = d.views[l]) ∧
    t = { d with links := t.links, views := t.views, lease := t.lease, attention := t.attention }) ∧
  ∀ (l : LinkId) (s : State), (∀ f, s.links[l].tx ≠ .sending f) →
    exec (.lineBreak ⟨l, .afterDelivery⟩) s = exec (.lineBreak ⟨l, .alone⟩) s

/-- R146 to R150: at the end of GUARD, and at the delivery of a reply, the oldest request leaves the queue and is
executed, with the lease reload of R122 as the last step; with the queue empty an ERROR REPORT that empties the summary
follows, or the AM48's TURN; at the delivery of that TURN the client owns the line. The command that names the request
is the same event (log 6). -/
def Obligations.TurnsRunTheirCourse : Prop :=
  (∀ (l : LinkId) (r : Request) (rest : List Request) (s s1 : State), atComposition l r rest s s1 →
    exec (if s.links[l].tx = .guard then .guardEnd l else .replyDelivery l) s =
      .next (renewLease l (runRequest l r (popped l rest s1))) ∧
    exec (commandOf l r) s = .next (renewLease l (runRequest l r (popped l rest s1)))) ∧
  (∀ (l : LinkId) (s s1 : State), operating s l = true → compositionState l s = some s1 →
    s1.links[l].queue = [] →
    (s1.links[l].summary = 0 →
      exec (if s.links[l].tx = .guard then .guardEnd l else .replyDelivery l) s = .next
        { s1 with links := upd s1.links l fun k => { k with tx := .sending (shortReply .turn 0 0) } }) ∧
    (s1.links[l].summary ≠ 0 →
      exec (if s.links[l].tx = .guard then .guardEnd l else .replyDelivery l) s = .next
        { s1 with
          links := upd s1.links l fun k =>
            { k with
              summary := 0
              tx := .sending (shortReply .errorReport (BitVec.setWidth 8 (s1.links[l].summary >>> 8))
                (BitVec.setWidth 8 s1.links[l].summary)) } })) ∧
  ∀ (l : LinkId) (s : State),
    (s.links[l].tx = .guard → compositionState l s = some s) ∧
    (isSending l .result s ∨ isSending l .settingData s → compositionState l s = some s) ∧
    (isSending l .errorReport s → exec (.replyDelivery l) s = .next
      { s with links := upd s.links l fun k => { k with tx := .sending (shortReply .turn 0 0) } }) ∧
    (isSending l .turn s → exec (.replyDelivery l) s = .next
      { s with links := upd s.links l fun k => { k with owner := .client, tx := .idle, receiver := .idle } })

/-- R155, R61, R148: LINK STATUS reports the counters, the holder and the notice as they stand, and records them. At the
delivery the counters fall by what was reported, and a notice reported set is cleared unless the lost-again marker holds
it; then the next frame is composed. -/
def Obligations.LinkStatusReportsAndConsumes : Prop :=
  (∀ (l : LinkId) (rest : List Request) (s s1 : State), atComposition l .linkStatus rest s s1 →
    exec (.linkStatus l) s = .next (renewLease l
      { s1 with
        links := upd s1.links l fun k =>
          { k with
            queue := rest
            status := some
              { accepted := k.accepted, corrected := k.corrected, discarded := k.discarded, breaks := k.breaks,
                notice := s1.views[l].leaseLost }
            tx := .sending (longReply .linkStatusData
              (be16 (BitVec.ofNat 16 k.accepted) ++ be16 (BitVec.ofNat 16 k.corrected) ++
                be16 (BitVec.ofNat 16 k.discarded) ++
                [BitVec.ofNat 8 k.breaks,
                  match s1.lease.holder with
                  | none => 0xFF
                  | some h => BitVec.ofNat 8 h.val,
                  if s1.views[l].leaseLost then 1 else 0])) } })) ∧
  ∀ (l : LinkId) (s : State) (r : StatusReported), isSending l .linkStatusData s → s.links[l].status = some r → ∃ u,
    exec (.replyDelivery l) s = .next (composeNext l u) ∧
    u.links = upd s.links l (fun k =>
      { k with
        accepted := k.accepted - r.accepted
        corrected := k.corrected - r.corrected
        discarded := k.discarded - r.discarded
        breaks := k.breaks - r.breaks
        status := none }) ∧
    u.views = upd s.views l (fun v =>
      { v with leaseLost := if r.notice then v.lostAgain else v.leaseLost, lostAgain := false }) ∧
    u = { s with links := u.links, views := u.views, attention := u.attention }

/-! ## Invariants -/

/-- The invariants below hold at reset. -/
def Obligations.InvariantsHoldAtReset : Prop :=
  queuesBounded State.reset ∧ accountsMatchMask State.reset ∧ settingsLegal State.reset ∧
    leaseConsistent State.reset ∧ channelsConsistent State.reset ∧ attentionCurrent State.reset ∧
    accountsWithinLimits State.reset ∧ linksConsistent State.reset ∧ captureMemoryConsistent State.reset

/-- R136, R145, R146, R151: every step keeps every request queue at no more than 4 requests, whatever else holds; and,
that given, it keeps the line with its owner, the bytes still to send at the end of the frame composed, and a report or
status in flight with the frame that carries it. -/
def Obligations.StepKeepsLinksConsistent : Prop :=
  (∀ s t : State, queuesBounded s → step s = .next t → queuesBounded t) ∧
    ∀ s t : State, linksConsistent s → step s = .next t → linksConsistent t

/-- R101, R106, R107, R117: every step keeps each ring within its slots, its records in the slots behind its head and no
record in any other slot; a report in flight within the ring and the dropped count; and every capture and record at 1 to
4 entries in ascending channel order. The states that its premises rule out are ruled out by invariants of the model,
each of which every step keeps as well. -/
def Obligations.StepKeepsTheCaptureMemory : Prop :=
  ∀ s t : State, settingsLegal s → linksConsistent s → captureMemoryConsistent s → step s = .next t →
    captureMemoryConsistent t

/-- R52: every step keeps the accounts of every view to its subscription mask. -/
def Obligations.StepKeepsAccountsToTheMask : Prop :=
  ∀ s t : State, accountsMatchMask s → step s = .next t → accountsMatchMask t

/-- R39, R62, R87, R108, R120: every step keeps every setting and every combination of settings legal, and gives no
capture-memory slot to the rings of two views. -/
def Obligations.StepKeepsSettingsLegal : Prop :=
  ∀ s t : State, settingsLegal s → step s = .next t → settingsLegal t

/-- R120: every step keeps the lease consistent with its countdown and with the enabled links. -/
def Obligations.StepKeepsTheLeaseConsistent : Prop :=
  ∀ s t : State, leaseConsistent s → step s = .next t → leaseConsistent t

/-- R1, R2, R7, R34, R45: every step keeps the channel states in step with the enable settings, the flags and the
exchange in flight. -/
def Obligations.StepKeepsChannelsConsistent : Prop :=
  ∀ s t : State, channelsConsistent s → step s = .next t → channelsConsistent t

/-- R66 to R70: every step leaves every attention output as its view's settings and condition call for. -/
def Obligations.StepKeepsAttentionCurrent : Prop :=
  ∀ s t : State, attentionCurrent s → step s = .next t → attentionCurrent t

/-- R52, R54: every step keeps every pending value within the range that the report in flight leaves, and every gap and
spill count within 0 to 15. -/
def Obligations.StepKeepsAccountsWithinLimits : Prop :=
  ∀ s t : State, accountsWithinLimits s → step s = .next t → accountsWithinLimits t
end

