-- ==== Sys2Proof/Laws/Vec.lean ====
section
/-! SUPPORT. Reading after writing in a file of registers, and folds that keep a part of the state. -/

namespace Sys2Proof.Machine

@[simp] theorem get_put {α : Type} {n : Nat} (v : Vector α n) (i : Fin n) (x : α) (k : Nat) (h : k < n) :
    (put v i x)[k]'h = if i.val = k then x else v[k] := by
  simp [put, Vector.getElem_set]

@[simp] theorem get_upd {α : Type} {n : Nat} (v : Vector α n) (i : Fin n) (f : α → α) (k : Nat) (h : k < n) :
    (upd v i f)[k]'h = if i.val = k then f v[i] else v[k] := get_put v i (f v[i]) k h

@[simp] theorem get_tab4 {α : Type} (f : Fin 4 → α) (k : Nat) (h : k < 4) : (tab4 f)[k]'h = f ⟨k, h⟩ := by
  interval_cases k <;> rfl

@[simp] theorem get_tab8 {α : Type} (f : Fin 8 → α) (k : Nat) (h : k < 8) : (tab8 f)[k]'h = f ⟨k, h⟩ := by
  interval_cases k <;> rfl

/-- Two files of registers with the same contents are equal. -/
theorem vector_ext {α : Type} {n : Nat} {v w : Vector α n} (h : ∀ i : Fin n, v[i] = w[i]) : v = w :=
  Vector.ext fun i hi => h ⟨i, hi⟩

theorem upd_eq_self {α : Type} {n : Nat} (v : Vector α n) (i : Fin n) (f : α → α) (h : f v[i] = v[i]) :
    upd v i f = v :=
  vector_ext fun j => by
    rw [Fin.getElem_fin, get_upd]
    split
    · next hij => rw [h]; simp [hij]
    · rfl

theorem get_upd_eq {α : Type} {n : Nat} {v : Vector α n} {i : Fin n} {f : α → α} : (upd v i f)[i] = f v[i] := by
  simp

theorem get_upd_ne {α : Type} {n : Nat} {v : Vector α n} {i j : Fin n} {f : α → α} (h : j ≠ i) :
    (upd v i f)[j] = v[j] := by
  simp only [Fin.getElem_fin, get_upd]
  rw [if_neg fun e => h (Fin.ext e.symm)]

theorem get_put_ne {α : Type} {n : Nat} {v : Vector α n} {i j : Fin n} {x : α} (h : j ≠ i) :
    (put v i x)[j] = v[j] := by
  simp only [Fin.getElem_fin, get_put]
  rw [if_neg fun e => h (Fin.ext e.symm)]

theorem put_self {α : Type} {n : Nat} (v : Vector α n) (i : Fin n) : put v i v[i] = v :=
  upd_eq_self v i id rfl

theorem put_put {α : Type} {n : Nat} (v : Vector α n) (i : Fin n) (x y : α) : put (put v i x) i y = put v i y :=
  vector_ext fun j => by
    simp only [Fin.getElem_fin, get_put]
    split <;> rfl

theorem upd_congr {α : Type} {n : Nat} (v : Vector α n) (i : Fin n) (f g : α → α) (h : f v[i] = g v[i]) :
    upd v i f = upd v i g := by
  unfold upd; rw [h]

theorem upd_upd {α : Type} {n : Nat} (v : Vector α n) (i : Fin n) (f g : α → α) :
    upd (upd v i f) i g = upd v i fun x => g (f x) := by
  apply vector_ext
  intro j
  simp only [Fin.getElem_fin, get_upd]
  split <;> simp_all

@[simp] theorem mem_allChannels (c : ChannelId) : c ∈ allChannels := by
  match c with
  | 0 | 1 | 2 | 3 | 4 | 5 | 6 | 7 => decide

@[simp] theorem mem_allLinks (l : LinkId) : l ∈ allLinks := by
  match l with
  | 0 | 1 | 2 | 3 => decide

@[simp] theorem mem_allTriggers (t : TriggerId) : t ∈ allTriggers := by
  match t with
  | 0 | 1 | 2 | 3 => decide

/-- A fold whose every step keeps a part of the state keeps it. -/
theorem foldl_keeps {σ ι β : Type} (g : σ → β) (f : σ → ι → σ) (h : ∀ s x, g (f s x) = g s) (xs : List ι) (s : σ) :
    g (xs.foldl f s) = g s := by
  induction xs generalizing s with
  | nil => rfl
  | cons x xs ih => rw [List.foldl_cons, ih, h]

/-- A fold whose every step keeps a property keeps it. -/
theorem foldl_preserves {σ ι : Type} (p : σ → Prop) (f : σ → ι → σ) (h : ∀ s x, p s → p (f s x)) (xs : List ι)
    (s : σ) (hs : p s) : p (xs.foldl f s) := by
  induction xs generalizing s with
  | nil => exact hs
  | cons x xs ih => exact ih _ (h s x hs)

theorem foldl_id {σ ι : Type} (f : σ → ι → σ) (xs : List ι) (s : σ) (h : ∀ s x, f s x = s) : xs.foldl f s = s := by
  induction xs with
  | nil => rfl
  | cons x xs ih => rw [List.foldl_cons, h]; exact ih

/-- A fold whose steps do nothing but for one index is that step. -/
theorem foldl_single {σ ι : Type} (f : σ → ι → σ) (c : ι) (xs : List ι) (hn : xs.Nodup) (hc : c ∈ xs)
    (h : ∀ s x, x ≠ c → f s x = s) (s : σ) : xs.foldl f s = f s c := by
  have away : ∀ xs : List ι, c ∉ xs → ∀ s, xs.foldl f s = s := by
    intro xs
    induction xs with
    | nil => intro _ s; rfl
    | cons x xs ih =>
      intro hx s
      simp only [List.mem_cons, not_or] at hx
      rw [List.foldl_cons, h s x (Ne.symm hx.1), ih hx.2]
  induction xs generalizing s with
  | nil => cases hc
  | cons x xs ih =>
    rw [List.nodup_cons] at hn
    rw [List.foldl_cons]
    cases hc with
    | head => exact away xs hn.1 _
    | tail _ hm => rw [h s x fun e => hn.1 (e ▸ hm)]; exact ih hn.2 hm s

end Sys2Proof.Machine
end

