-- ==== Sys2Proof/Laws/State.lean ====
section
/-! SUPPORT. Each update of one register file: what it changes, and that it changes no other field of the state. -/

namespace Sys2Proof.Machine

@[simp] theorem State.modChannel_channels (s : State) (i : ChannelId) (f : Channel → Channel) :
    (s.modChannel i f).channels = upd s.channels i f := rfl

@[simp] theorem State.modChannel_phase (s : State) (i : ChannelId) (f : Channel → Channel) : (s.modChannel i f).phase = s.phase := rfl

@[simp] theorem State.modChannel_tickCount (s : State) (i : ChannelId) (f : Channel → Channel) : (s.modChannel i f).tickCount = s.tickCount := rfl

@[simp] theorem State.modChannel_straps (s : State) (i : ChannelId) (f : Channel → Channel) : (s.modChannel i f).straps = s.straps := rfl

@[simp] theorem State.modChannel_settings (s : State) (i : ChannelId) (f : Channel → Channel) : (s.modChannel i f).settings = s.settings := rfl

@[simp] theorem State.modChannel_polls (s : State) (i : ChannelId) (f : Channel → Channel) : (s.modChannel i f).polls = s.polls := rfl

@[simp] theorem State.modChannel_bus (s : State) (i : ChannelId) (f : Channel → Channel) : (s.modChannel i f).bus = s.bus := rfl

@[simp] theorem State.modChannel_views (s : State) (i : ChannelId) (f : Channel → Channel) : (s.modChannel i f).views = s.views := rfl

@[simp] theorem State.modChannel_attention (s : State) (i : ChannelId) (f : Channel → Channel) : (s.modChannel i f).attention = s.attention := rfl

@[simp] theorem State.modChannel_triggers (s : State) (i : ChannelId) (f : Channel → Channel) : (s.modChannel i f).triggers = s.triggers := rfl

@[simp] theorem State.modChannel_slots (s : State) (i : ChannelId) (f : Channel → Channel) : (s.modChannel i f).slots = s.slots := rfl

@[simp] theorem State.modChannel_rings (s : State) (i : ChannelId) (f : Channel → Channel) : (s.modChannel i f).rings = s.rings := rfl

@[simp] theorem State.modChannel_lease (s : State) (i : ChannelId) (f : Channel → Channel) : (s.modChannel i f).lease = s.lease := rfl

@[simp] theorem State.modChannel_links (s : State) (i : ChannelId) (f : Channel → Channel) : (s.modChannel i f).links = s.links := rfl

@[simp] theorem State.modChannel_pending (s : State) (i : ChannelId) (f : Channel → Channel) : (s.modChannel i f).pending = s.pending := rfl

@[simp] theorem State.modPoll_polls (s : State) (i : ChannelId) (f : Poll → Poll) :
    (s.modPoll i f).polls = upd s.polls i f := rfl

@[simp] theorem State.modPoll_phase (s : State) (i : ChannelId) (f : Poll → Poll) : (s.modPoll i f).phase = s.phase := rfl

@[simp] theorem State.modPoll_tickCount (s : State) (i : ChannelId) (f : Poll → Poll) : (s.modPoll i f).tickCount = s.tickCount := rfl

@[simp] theorem State.modPoll_straps (s : State) (i : ChannelId) (f : Poll → Poll) : (s.modPoll i f).straps = s.straps := rfl

@[simp] theorem State.modPoll_settings (s : State) (i : ChannelId) (f : Poll → Poll) : (s.modPoll i f).settings = s.settings := rfl

@[simp] theorem State.modPoll_channels (s : State) (i : ChannelId) (f : Poll → Poll) : (s.modPoll i f).channels = s.channels := rfl

@[simp] theorem State.modPoll_bus (s : State) (i : ChannelId) (f : Poll → Poll) : (s.modPoll i f).bus = s.bus := rfl

@[simp] theorem State.modPoll_views (s : State) (i : ChannelId) (f : Poll → Poll) : (s.modPoll i f).views = s.views := rfl

@[simp] theorem State.modPoll_attention (s : State) (i : ChannelId) (f : Poll → Poll) : (s.modPoll i f).attention = s.attention := rfl

@[simp] theorem State.modPoll_triggers (s : State) (i : ChannelId) (f : Poll → Poll) : (s.modPoll i f).triggers = s.triggers := rfl

@[simp] theorem State.modPoll_slots (s : State) (i : ChannelId) (f : Poll → Poll) : (s.modPoll i f).slots = s.slots := rfl

@[simp] theorem State.modPoll_rings (s : State) (i : ChannelId) (f : Poll → Poll) : (s.modPoll i f).rings = s.rings := rfl

@[simp] theorem State.modPoll_lease (s : State) (i : ChannelId) (f : Poll → Poll) : (s.modPoll i f).lease = s.lease := rfl

@[simp] theorem State.modPoll_links (s : State) (i : ChannelId) (f : Poll → Poll) : (s.modPoll i f).links = s.links := rfl

@[simp] theorem State.modPoll_pending (s : State) (i : ChannelId) (f : Poll → Poll) : (s.modPoll i f).pending = s.pending := rfl

@[simp] theorem State.modView_views (s : State) (i : LinkId) (f : View → View) :
    (s.modView i f).views = upd s.views i f := rfl

@[simp] theorem State.modView_phase (s : State) (i : LinkId) (f : View → View) : (s.modView i f).phase = s.phase := rfl

@[simp] theorem State.modView_tickCount (s : State) (i : LinkId) (f : View → View) : (s.modView i f).tickCount = s.tickCount := rfl

@[simp] theorem State.modView_straps (s : State) (i : LinkId) (f : View → View) : (s.modView i f).straps = s.straps := rfl

@[simp] theorem State.modView_settings (s : State) (i : LinkId) (f : View → View) : (s.modView i f).settings = s.settings := rfl

@[simp] theorem State.modView_channels (s : State) (i : LinkId) (f : View → View) : (s.modView i f).channels = s.channels := rfl

@[simp] theorem State.modView_polls (s : State) (i : LinkId) (f : View → View) : (s.modView i f).polls = s.polls := rfl

@[simp] theorem State.modView_bus (s : State) (i : LinkId) (f : View → View) : (s.modView i f).bus = s.bus := rfl

@[simp] theorem State.modView_attention (s : State) (i : LinkId) (f : View → View) : (s.modView i f).attention = s.attention := rfl

@[simp] theorem State.modView_triggers (s : State) (i : LinkId) (f : View → View) : (s.modView i f).triggers = s.triggers := rfl

@[simp] theorem State.modView_slots (s : State) (i : LinkId) (f : View → View) : (s.modView i f).slots = s.slots := rfl

@[simp] theorem State.modView_rings (s : State) (i : LinkId) (f : View → View) : (s.modView i f).rings = s.rings := rfl

@[simp] theorem State.modView_lease (s : State) (i : LinkId) (f : View → View) : (s.modView i f).lease = s.lease := rfl

@[simp] theorem State.modView_links (s : State) (i : LinkId) (f : View → View) : (s.modView i f).links = s.links := rfl

@[simp] theorem State.modView_pending (s : State) (i : LinkId) (f : View → View) : (s.modView i f).pending = s.pending := rfl

@[simp] theorem State.modAttention_attention (s : State) (i : LinkId) (f : Attention → Attention) :
    (s.modAttention i f).attention = upd s.attention i f := rfl

@[simp] theorem State.modAttention_phase (s : State) (i : LinkId) (f : Attention → Attention) : (s.modAttention i f).phase = s.phase := rfl

@[simp] theorem State.modAttention_tickCount (s : State) (i : LinkId) (f : Attention → Attention) : (s.modAttention i f).tickCount = s.tickCount := rfl

@[simp] theorem State.modAttention_straps (s : State) (i : LinkId) (f : Attention → Attention) : (s.modAttention i f).straps = s.straps := rfl

@[simp] theorem State.modAttention_settings (s : State) (i : LinkId) (f : Attention → Attention) : (s.modAttention i f).settings = s.settings := rfl

@[simp] theorem State.modAttention_channels (s : State) (i : LinkId) (f : Attention → Attention) : (s.modAttention i f).channels = s.channels := rfl

@[simp] theorem State.modAttention_polls (s : State) (i : LinkId) (f : Attention → Attention) : (s.modAttention i f).polls = s.polls := rfl

@[simp] theorem State.modAttention_bus (s : State) (i : LinkId) (f : Attention → Attention) : (s.modAttention i f).bus = s.bus := rfl

@[simp] theorem State.modAttention_views (s : State) (i : LinkId) (f : Attention → Attention) : (s.modAttention i f).views = s.views := rfl

@[simp] theorem State.modAttention_triggers (s : State) (i : LinkId) (f : Attention → Attention) : (s.modAttention i f).triggers = s.triggers := rfl

@[simp] theorem State.modAttention_slots (s : State) (i : LinkId) (f : Attention → Attention) : (s.modAttention i f).slots = s.slots := rfl

@[simp] theorem State.modAttention_rings (s : State) (i : LinkId) (f : Attention → Attention) : (s.modAttention i f).rings = s.rings := rfl

@[simp] theorem State.modAttention_lease (s : State) (i : LinkId) (f : Attention → Attention) : (s.modAttention i f).lease = s.lease := rfl

@[simp] theorem State.modAttention_links (s : State) (i : LinkId) (f : Attention → Attention) : (s.modAttention i f).links = s.links := rfl

@[simp] theorem State.modAttention_pending (s : State) (i : LinkId) (f : Attention → Attention) : (s.modAttention i f).pending = s.pending := rfl

@[simp] theorem State.modTrigger_triggers (s : State) (i : TriggerId) (f : Trigger → Trigger) :
    (s.modTrigger i f).triggers = upd s.triggers i f := rfl

@[simp] theorem State.modTrigger_phase (s : State) (i : TriggerId) (f : Trigger → Trigger) : (s.modTrigger i f).phase = s.phase := rfl

@[simp] theorem State.modTrigger_tickCount (s : State) (i : TriggerId) (f : Trigger → Trigger) : (s.modTrigger i f).tickCount = s.tickCount := rfl

@[simp] theorem State.modTrigger_straps (s : State) (i : TriggerId) (f : Trigger → Trigger) : (s.modTrigger i f).straps = s.straps := rfl

@[simp] theorem State.modTrigger_settings (s : State) (i : TriggerId) (f : Trigger → Trigger) : (s.modTrigger i f).settings = s.settings := rfl

@[simp] theorem State.modTrigger_channels (s : State) (i : TriggerId) (f : Trigger → Trigger) : (s.modTrigger i f).channels = s.channels := rfl

@[simp] theorem State.modTrigger_polls (s : State) (i : TriggerId) (f : Trigger → Trigger) : (s.modTrigger i f).polls = s.polls := rfl

@[simp] theorem State.modTrigger_bus (s : State) (i : TriggerId) (f : Trigger → Trigger) : (s.modTrigger i f).bus = s.bus := rfl

@[simp] theorem State.modTrigger_views (s : State) (i : TriggerId) (f : Trigger → Trigger) : (s.modTrigger i f).views = s.views := rfl

@[simp] theorem State.modTrigger_attention (s : State) (i : TriggerId) (f : Trigger → Trigger) : (s.modTrigger i f).attention = s.attention := rfl

@[simp] theorem State.modTrigger_slots (s : State) (i : TriggerId) (f : Trigger → Trigger) : (s.modTrigger i f).slots = s.slots := rfl

@[simp] theorem State.modTrigger_rings (s : State) (i : TriggerId) (f : Trigger → Trigger) : (s.modTrigger i f).rings = s.rings := rfl

@[simp] theorem State.modTrigger_lease (s : State) (i : TriggerId) (f : Trigger → Trigger) : (s.modTrigger i f).lease = s.lease := rfl

@[simp] theorem State.modTrigger_links (s : State) (i : TriggerId) (f : Trigger → Trigger) : (s.modTrigger i f).links = s.links := rfl

@[simp] theorem State.modTrigger_pending (s : State) (i : TriggerId) (f : Trigger → Trigger) : (s.modTrigger i f).pending = s.pending := rfl

@[simp] theorem State.modRing_rings (s : State) (i : LinkId) (f : Ring → Ring) :
    (s.modRing i f).rings = upd s.rings i f := rfl

@[simp] theorem State.modRing_phase (s : State) (i : LinkId) (f : Ring → Ring) : (s.modRing i f).phase = s.phase := rfl

@[simp] theorem State.modRing_tickCount (s : State) (i : LinkId) (f : Ring → Ring) : (s.modRing i f).tickCount = s.tickCount := rfl

@[simp] theorem State.modRing_straps (s : State) (i : LinkId) (f : Ring → Ring) : (s.modRing i f).straps = s.straps := rfl

@[simp] theorem State.modRing_settings (s : State) (i : LinkId) (f : Ring → Ring) : (s.modRing i f).settings = s.settings := rfl

@[simp] theorem State.modRing_channels (s : State) (i : LinkId) (f : Ring → Ring) : (s.modRing i f).channels = s.channels := rfl

@[simp] theorem State.modRing_polls (s : State) (i : LinkId) (f : Ring → Ring) : (s.modRing i f).polls = s.polls := rfl

@[simp] theorem State.modRing_bus (s : State) (i : LinkId) (f : Ring → Ring) : (s.modRing i f).bus = s.bus := rfl

@[simp] theorem State.modRing_views (s : State) (i : LinkId) (f : Ring → Ring) : (s.modRing i f).views = s.views := rfl

@[simp] theorem State.modRing_attention (s : State) (i : LinkId) (f : Ring → Ring) : (s.modRing i f).attention = s.attention := rfl

@[simp] theorem State.modRing_triggers (s : State) (i : LinkId) (f : Ring → Ring) : (s.modRing i f).triggers = s.triggers := rfl

@[simp] theorem State.modRing_slots (s : State) (i : LinkId) (f : Ring → Ring) : (s.modRing i f).slots = s.slots := rfl

@[simp] theorem State.modRing_lease (s : State) (i : LinkId) (f : Ring → Ring) : (s.modRing i f).lease = s.lease := rfl

@[simp] theorem State.modRing_links (s : State) (i : LinkId) (f : Ring → Ring) : (s.modRing i f).links = s.links := rfl

@[simp] theorem State.modRing_pending (s : State) (i : LinkId) (f : Ring → Ring) : (s.modRing i f).pending = s.pending := rfl

@[simp] theorem State.modLink_links (s : State) (i : LinkId) (f : Link → Link) :
    (s.modLink i f).links = upd s.links i f := rfl

@[simp] theorem State.modLink_phase (s : State) (i : LinkId) (f : Link → Link) : (s.modLink i f).phase = s.phase := rfl

@[simp] theorem State.modLink_tickCount (s : State) (i : LinkId) (f : Link → Link) : (s.modLink i f).tickCount = s.tickCount := rfl

@[simp] theorem State.modLink_straps (s : State) (i : LinkId) (f : Link → Link) : (s.modLink i f).straps = s.straps := rfl

@[simp] theorem State.modLink_settings (s : State) (i : LinkId) (f : Link → Link) : (s.modLink i f).settings = s.settings := rfl

@[simp] theorem State.modLink_channels (s : State) (i : LinkId) (f : Link → Link) : (s.modLink i f).channels = s.channels := rfl

@[simp] theorem State.modLink_polls (s : State) (i : LinkId) (f : Link → Link) : (s.modLink i f).polls = s.polls := rfl

@[simp] theorem State.modLink_bus (s : State) (i : LinkId) (f : Link → Link) : (s.modLink i f).bus = s.bus := rfl

@[simp] theorem State.modLink_views (s : State) (i : LinkId) (f : Link → Link) : (s.modLink i f).views = s.views := rfl

@[simp] theorem State.modLink_attention (s : State) (i : LinkId) (f : Link → Link) : (s.modLink i f).attention = s.attention := rfl

@[simp] theorem State.modLink_triggers (s : State) (i : LinkId) (f : Link → Link) : (s.modLink i f).triggers = s.triggers := rfl

@[simp] theorem State.modLink_slots (s : State) (i : LinkId) (f : Link → Link) : (s.modLink i f).slots = s.slots := rfl

@[simp] theorem State.modLink_rings (s : State) (i : LinkId) (f : Link → Link) : (s.modLink i f).rings = s.rings := rfl

@[simp] theorem State.modLink_lease (s : State) (i : LinkId) (f : Link → Link) : (s.modLink i f).lease = s.lease := rfl

@[simp] theorem State.modLink_pending (s : State) (i : LinkId) (f : Link → Link) : (s.modLink i f).pending = s.pending := rfl

/-- Two states with the same fields are equal. -/
theorem State.eq_of_fields {s t : State} (phase : s.phase = t.phase) (tickCount : s.tickCount = t.tickCount)
    (straps : s.straps = t.straps) (settings : s.settings = t.settings) (channels : s.channels = t.channels)
    (polls : s.polls = t.polls) (bus : s.bus = t.bus) (views : s.views = t.views)
    (attention : s.attention = t.attention) (triggers : s.triggers = t.triggers) (slots : s.slots = t.slots)
    (rings : s.rings = t.rings) (lease : s.lease = t.lease) (links : s.links = t.links)
    (pending : s.pending = t.pending) : s = t := by
  cases s; cases t; simp_all

end Sys2Proof.Machine
end

