-- ==== Sys2Proof/Laws/Frames.lean ====
section
/-! SUPPORT. What each shared operation leaves alone: one theorem for each, naming every field of the state that it
cannot change. A caller cites these instead of unfolding the operation. -/

namespace Sys2Proof.Machine

@[simp] theorem attendAll_frame (s : State) :
    (attendAll s).phase = s.phase ∧ (attendAll s).tickCount = s.tickCount ∧ (attendAll s).straps = s.straps ∧
    (attendAll s).settings = s.settings ∧ (attendAll s).channels = s.channels ∧ (attendAll s).polls = s.polls ∧
    (attendAll s).bus = s.bus ∧ (attendAll s).views = s.views ∧ (attendAll s).triggers = s.triggers ∧
    (attendAll s).slots = s.slots ∧ (attendAll s).rings = s.rings ∧ (attendAll s).lease = s.lease ∧
    (attendAll s).links = s.links ∧ (attendAll s).pending = s.pending := by
  unfold attendAll; simp

@[simp] theorem send_frame (l : LinkId) (f : TxFrame) (s : State) :
    (send l f s).phase = s.phase ∧ (send l f s).tickCount = s.tickCount ∧ (send l f s).straps = s.straps ∧
    (send l f s).settings = s.settings ∧ (send l f s).channels = s.channels ∧ (send l f s).polls = s.polls ∧
    (send l f s).bus = s.bus ∧ (send l f s).views = s.views ∧ (send l f s).attention = s.attention ∧
    (send l f s).triggers = s.triggers ∧ (send l f s).slots = s.slots ∧ (send l f s).rings = s.rings ∧
    (send l f s).lease = s.lease ∧ (send l f s).pending = s.pending := by
  unfold send; simp

@[simp] theorem sendResult_frame (l : LinkId) (r : Request) (code : ResultCode) (s : State) :
    (sendResult l r code s).phase = s.phase ∧ (sendResult l r code s).tickCount = s.tickCount ∧
    (sendResult l r code s).straps = s.straps ∧ (sendResult l r code s).settings = s.settings ∧
    (sendResult l r code s).channels = s.channels ∧ (sendResult l r code s).polls = s.polls ∧
    (sendResult l r code s).bus = s.bus ∧ (sendResult l r code s).views = s.views ∧
    (sendResult l r code s).attention = s.attention ∧ (sendResult l r code s).triggers = s.triggers ∧
    (sendResult l r code s).slots = s.slots ∧ (sendResult l r code s).rings = s.rings ∧
    (sendResult l r code s).lease = s.lease ∧ (sendResult l r code s).pending = s.pending := by
  unfold sendResult; simp

@[simp] theorem renewLease_frame (l : LinkId) (s : State) :
    (renewLease l s).phase = s.phase ∧ (renewLease l s).tickCount = s.tickCount ∧
    (renewLease l s).straps = s.straps ∧ (renewLease l s).settings = s.settings ∧
    (renewLease l s).channels = s.channels ∧ (renewLease l s).polls = s.polls ∧ (renewLease l s).bus = s.bus ∧
    (renewLease l s).views = s.views ∧ (renewLease l s).attention = s.attention ∧
    (renewLease l s).triggers = s.triggers ∧ (renewLease l s).slots = s.slots ∧ (renewLease l s).rings = s.rings ∧
    (renewLease l s).links = s.links ∧ (renewLease l s).pending = s.pending := by
  unfold renewLease; split <;> simp

@[simp] theorem loseLease_frame (s : State) :
    (loseLease s).phase = s.phase ∧ (loseLease s).tickCount = s.tickCount ∧ (loseLease s).straps = s.straps ∧
    (loseLease s).settings = s.settings ∧ (loseLease s).channels = s.channels ∧ (loseLease s).polls = s.polls ∧
    (loseLease s).bus = s.bus ∧ (loseLease s).attention = s.attention ∧ (loseLease s).triggers = s.triggers ∧
    (loseLease s).slots = s.slots ∧ (loseLease s).rings = s.rings ∧ (loseLease s).links = s.links ∧
    (loseLease s).pending = s.pending := by
  unfold loseLease; split <;> simp

@[simp] theorem leaseExpiryEvent_frame (s : State) :
    (leaseExpiryEvent s).phase = s.phase ∧ (leaseExpiryEvent s).tickCount = s.tickCount ∧
    (leaseExpiryEvent s).straps = s.straps ∧ (leaseExpiryEvent s).settings = s.settings ∧
    (leaseExpiryEvent s).channels = s.channels ∧ (leaseExpiryEvent s).polls = s.polls ∧
    (leaseExpiryEvent s).bus = s.bus ∧ (leaseExpiryEvent s).triggers = s.triggers ∧
    (leaseExpiryEvent s).slots = s.slots ∧ (leaseExpiryEvent s).rings = s.rings ∧
    (leaseExpiryEvent s).links = s.links ∧ (leaseExpiryEvent s).pending = s.pending := by
  unfold leaseExpiryEvent; split <;> simp

@[simp] theorem runLeaseAcquire_frame (l : LinkId) (s : State) :
    (runLeaseAcquire l s).phase = s.phase ∧ (runLeaseAcquire l s).tickCount = s.tickCount ∧
    (runLeaseAcquire l s).straps = s.straps ∧ (runLeaseAcquire l s).settings = s.settings ∧
    (runLeaseAcquire l s).channels = s.channels ∧ (runLeaseAcquire l s).polls = s.polls ∧
    (runLeaseAcquire l s).bus = s.bus ∧ (runLeaseAcquire l s).views = s.views ∧
    (runLeaseAcquire l s).attention = s.attention ∧ (runLeaseAcquire l s).triggers = s.triggers ∧
    (runLeaseAcquire l s).slots = s.slots ∧ (runLeaseAcquire l s).rings = s.rings ∧
    (runLeaseAcquire l s).pending = s.pending := by
  unfold runLeaseAcquire; (repeat' split) <;> simp

@[simp] theorem runLeaseRelease_frame (l : LinkId) (s : State) :
    (runLeaseRelease l s).phase = s.phase ∧ (runLeaseRelease l s).tickCount = s.tickCount ∧
    (runLeaseRelease l s).straps = s.straps ∧ (runLeaseRelease l s).settings = s.settings ∧
    (runLeaseRelease l s).channels = s.channels ∧ (runLeaseRelease l s).polls = s.polls ∧
    (runLeaseRelease l s).bus = s.bus ∧ (runLeaseRelease l s).views = s.views ∧
    (runLeaseRelease l s).attention = s.attention ∧ (runLeaseRelease l s).triggers = s.triggers ∧
    (runLeaseRelease l s).slots = s.slots ∧ (runLeaseRelease l s).rings = s.rings ∧
    (runLeaseRelease l s).pending = s.pending := by
  unfold runLeaseRelease; split <;> simp

@[simp] theorem dueExpiryEvent_frame (c : ChannelId) (s : State) :
    (dueExpiryEvent c s).phase = s.phase ∧ (dueExpiryEvent c s).tickCount = s.tickCount ∧
    (dueExpiryEvent c s).straps = s.straps ∧ (dueExpiryEvent c s).settings = s.settings ∧
    (dueExpiryEvent c s).channels = s.channels ∧ (dueExpiryEvent c s).bus = s.bus ∧
    (dueExpiryEvent c s).views = s.views ∧ (dueExpiryEvent c s).attention = s.attention ∧
    (dueExpiryEvent c s).triggers = s.triggers ∧ (dueExpiryEvent c s).slots = s.slots ∧
    (dueExpiryEvent c s).rings = s.rings ∧ (dueExpiryEvent c s).lease = s.lease ∧
    (dueExpiryEvent c s).links = s.links ∧ (dueExpiryEvent c s).pending = s.pending := by
  unfold dueExpiryEvent; split <;> simp

@[simp] theorem emptyRing_frame (v : LinkId) (s : State) :
    (emptyRing v s).phase = s.phase ∧ (emptyRing v s).tickCount = s.tickCount ∧ (emptyRing v s).straps = s.straps ∧
    (emptyRing v s).settings = s.settings ∧ (emptyRing v s).channels = s.channels ∧
    (emptyRing v s).polls = s.polls ∧ (emptyRing v s).bus = s.bus ∧ (emptyRing v s).views = s.views ∧
    (emptyRing v s).attention = s.attention ∧ (emptyRing v s).triggers = s.triggers ∧
    (emptyRing v s).lease = s.lease ∧ (emptyRing v s).links = s.links ∧ (emptyRing v s).pending = s.pending := by
  unfold emptyRing; simp

@[simp] theorem removeHead_frame (v : LinkId) (k : Nat) (s : State) :
    (removeHead v k s).phase = s.phase ∧ (removeHead v k s).tickCount = s.tickCount ∧
    (removeHead v k s).straps = s.straps ∧ (removeHead v k s).settings = s.settings ∧
    (removeHead v k s).channels = s.channels ∧ (removeHead v k s).polls = s.polls ∧
    (removeHead v k s).bus = s.bus ∧ (removeHead v k s).views = s.views ∧
    (removeHead v k s).attention = s.attention ∧ (removeHead v k s).triggers = s.triggers ∧
    (removeHead v k s).lease = s.lease ∧ (removeHead v k s).links = s.links ∧
    (removeHead v k s).pending = s.pending := by
  unfold removeHead; simp

@[simp] theorem appendTo_frame (r : CaptureRecord) (s : State) (v : LinkId) :
    (appendTo r s v).phase = s.phase ∧ (appendTo r s v).tickCount = s.tickCount ∧
    (appendTo r s v).straps = s.straps ∧ (appendTo r s v).settings = s.settings ∧
    (appendTo r s v).channels = s.channels ∧ (appendTo r s v).polls = s.polls ∧ (appendTo r s v).bus = s.bus ∧
    (appendTo r s v).views = s.views ∧ (appendTo r s v).attention = s.attention ∧
    (appendTo r s v).triggers = s.triggers ∧ (appendTo r s v).lease = s.lease ∧ (appendTo r s v).links = s.links ∧
    (appendTo r s v).pending = s.pending := by
  unfold appendTo; dsimp only; (repeat' split) <;> simp

@[simp] theorem appendRecord_frame (r : CaptureRecord) (s : State) :
    (appendRecord r s).phase = s.phase ∧ (appendRecord r s).tickCount = s.tickCount ∧
    (appendRecord r s).straps = s.straps ∧ (appendRecord r s).settings = s.settings ∧
    (appendRecord r s).channels = s.channels ∧ (appendRecord r s).polls = s.polls ∧
    (appendRecord r s).bus = s.bus ∧ (appendRecord r s).views = s.views ∧
    (appendRecord r s).attention = s.attention ∧ (appendRecord r s).triggers = s.triggers ∧
    (appendRecord r s).lease = s.lease ∧ (appendRecord r s).links = s.links ∧
    (appendRecord r s).pending = s.pending := by
  unfold appendRecord
  refine ⟨?_, ?_, ?_, ?_, ?_, ?_, ?_, ?_, ?_, ?_, ?_, ?_, ?_⟩ <;> exact foldl_keeps _ _ (fun s x => by simp) _ s

@[simp] theorem runCaptureRead_frame (l : LinkId) (n : Byte) (s : State) :
    (runCaptureRead l n s).phase = s.phase ∧ (runCaptureRead l n s).tickCount = s.tickCount ∧
    (runCaptureRead l n s).straps = s.straps ∧ (runCaptureRead l n s).settings = s.settings ∧
    (runCaptureRead l n s).channels = s.channels ∧ (runCaptureRead l n s).polls = s.polls ∧
    (runCaptureRead l n s).bus = s.bus ∧ (runCaptureRead l n s).views = s.views ∧
    (runCaptureRead l n s).attention = s.attention ∧ (runCaptureRead l n s).triggers = s.triggers ∧
    (runCaptureRead l n s).slots = s.slots ∧ (runCaptureRead l n s).lease = s.lease ∧
    (runCaptureRead l n s).pending = s.pending := by
  unfold runCaptureRead; split <;> simp

@[simp] theorem deliverCapture_frame (l : LinkId) (s : State) :
    (deliverCapture l s).phase = s.phase ∧ (deliverCapture l s).tickCount = s.tickCount ∧
    (deliverCapture l s).straps = s.straps ∧ (deliverCapture l s).settings = s.settings ∧
    (deliverCapture l s).channels = s.channels ∧ (deliverCapture l s).polls = s.polls ∧
    (deliverCapture l s).bus = s.bus ∧ (deliverCapture l s).views = s.views ∧
    (deliverCapture l s).triggers = s.triggers ∧ (deliverCapture l s).lease = s.lease ∧
    (deliverCapture l s).links = s.links ∧ (deliverCapture l s).pending = s.pending := by
  unfold deliverCapture; split <;> simp

@[simp] theorem abortCapture_frame (l : LinkId) (s : State) :
    (abortCapture l s).phase = s.phase ∧ (abortCapture l s).tickCount = s.tickCount ∧
    (abortCapture l s).straps = s.straps ∧ (abortCapture l s).settings = s.settings ∧
    (abortCapture l s).channels = s.channels ∧ (abortCapture l s).polls = s.polls ∧
    (abortCapture l s).bus = s.bus ∧ (abortCapture l s).views = s.views ∧
    (abortCapture l s).attention = s.attention ∧ (abortCapture l s).triggers = s.triggers ∧
    (abortCapture l s).slots = s.slots ∧ (abortCapture l s).lease = s.lease ∧ (abortCapture l s).links = s.links ∧
    (abortCapture l s).pending = s.pending := by
  unfold abortCapture; simp

@[simp] theorem accumulateAll_frame (c : ChannelId) (x y : BitVec 12) (q : Byte) (s : State) :
    (accumulateAll c x y q s).phase = s.phase ∧ (accumulateAll c x y q s).tickCount = s.tickCount ∧
    (accumulateAll c x y q s).straps = s.straps ∧ (accumulateAll c x y q s).settings = s.settings ∧
    (accumulateAll c x y q s).channels = s.channels ∧ (accumulateAll c x y q s).polls = s.polls ∧
    (accumulateAll c x y q s).bus = s.bus ∧ (accumulateAll c x y q s).attention = s.attention ∧
    (accumulateAll c x y q s).triggers = s.triggers ∧ (accumulateAll c x y q s).slots = s.slots ∧
    (accumulateAll c x y q s).rings = s.rings ∧ (accumulateAll c x y q s).lease = s.lease ∧
    (accumulateAll c x y q s).links = s.links ∧ (accumulateAll c x y q s).pending = s.pending := by
  unfold accumulateAll; simp

@[simp] theorem gapAll_frame (c : ChannelId) (s : State) :
    (gapAll c s).phase = s.phase ∧ (gapAll c s).tickCount = s.tickCount ∧ (gapAll c s).straps = s.straps ∧
    (gapAll c s).settings = s.settings ∧ (gapAll c s).channels = s.channels ∧ (gapAll c s).polls = s.polls ∧
    (gapAll c s).bus = s.bus ∧ (gapAll c s).attention = s.attention ∧ (gapAll c s).triggers = s.triggers ∧
    (gapAll c s).slots = s.slots ∧ (gapAll c s).rings = s.rings ∧ (gapAll c s).lease = s.lease ∧
    (gapAll c s).links = s.links ∧ (gapAll c s).pending = s.pending := by
  unfold gapAll; simp

@[simp] theorem runMotionRead_frame (l : LinkId) (m o : Byte) (s : State) :
    (runMotionRead l m o s).phase = s.phase ∧ (runMotionRead l m o s).tickCount = s.tickCount ∧
    (runMotionRead l m o s).straps = s.straps ∧ (runMotionRead l m o s).settings = s.settings ∧
    (runMotionRead l m o s).channels = s.channels ∧ (runMotionRead l m o s).polls = s.polls ∧
    (runMotionRead l m o s).bus = s.bus ∧ (runMotionRead l m o s).attention = s.attention ∧
    (runMotionRead l m o s).triggers = s.triggers ∧ (runMotionRead l m o s).slots = s.slots ∧
    (runMotionRead l m o s).rings = s.rings ∧ (runMotionRead l m o s).lease = s.lease ∧
    (runMotionRead l m o s).pending = s.pending := by
  unfold runMotionRead; split <;> simp

@[simp] theorem deliverMotion_frame (l : LinkId) (s : State) :
    (deliverMotion l s).phase = s.phase ∧ (deliverMotion l s).tickCount = s.tickCount ∧
    (deliverMotion l s).straps = s.straps ∧ (deliverMotion l s).settings = s.settings ∧
    (deliverMotion l s).channels = s.channels ∧ (deliverMotion l s).polls = s.polls ∧
    (deliverMotion l s).bus = s.bus ∧ (deliverMotion l s).triggers = s.triggers ∧
    (deliverMotion l s).slots = s.slots ∧ (deliverMotion l s).rings = s.rings ∧
    (deliverMotion l s).lease = s.lease ∧ (deliverMotion l s).links = s.links ∧
    (deliverMotion l s).pending = s.pending := by
  unfold deliverMotion; split <;> simp

@[simp] theorem abortMotion_frame (l : LinkId) (s : State) :
    (abortMotion l s).phase = s.phase ∧ (abortMotion l s).tickCount = s.tickCount ∧
    (abortMotion l s).straps = s.straps ∧ (abortMotion l s).settings = s.settings ∧
    (abortMotion l s).channels = s.channels ∧ (abortMotion l s).polls = s.polls ∧ (abortMotion l s).bus = s.bus ∧
    (abortMotion l s).attention = s.attention ∧ (abortMotion l s).triggers = s.triggers ∧
    (abortMotion l s).slots = s.slots ∧ (abortMotion l s).rings = s.rings ∧ (abortMotion l s).lease = s.lease ∧
    (abortMotion l s).links = s.links ∧ (abortMotion l s).pending = s.pending := by
  unfold abortMotion; simp

@[simp] theorem runViewReset_frame (l : LinkId) (s : State) :
    (runViewReset l s).phase = s.phase ∧ (runViewReset l s).tickCount = s.tickCount ∧
    (runViewReset l s).straps = s.straps ∧ (runViewReset l s).settings = s.settings ∧
    (runViewReset l s).channels = s.channels ∧ (runViewReset l s).polls = s.polls ∧
    (runViewReset l s).bus = s.bus ∧ (runViewReset l s).triggers = s.triggers ∧
    (runViewReset l s).lease = s.lease ∧ (runViewReset l s).pending = s.pending := by
  unfold runViewReset; simp

@[simp] theorem pulseTickEvent_frame (v : LinkId) (s : State) :
    (pulseTickEvent v s).phase = s.phase ∧ (pulseTickEvent v s).tickCount = s.tickCount ∧
    (pulseTickEvent v s).straps = s.straps ∧ (pulseTickEvent v s).settings = s.settings ∧
    (pulseTickEvent v s).channels = s.channels ∧ (pulseTickEvent v s).polls = s.polls ∧
    (pulseTickEvent v s).bus = s.bus ∧ (pulseTickEvent v s).views = s.views ∧
    (pulseTickEvent v s).triggers = s.triggers ∧ (pulseTickEvent v s).slots = s.slots ∧
    (pulseTickEvent v s).rings = s.rings ∧ (pulseTickEvent v s).lease = s.lease ∧
    (pulseTickEvent v s).links = s.links ∧ (pulseTickEvent v s).pending = s.pending := by
  unfold pulseTickEvent; split <;> simp

@[simp] theorem mapEntries_frame (f : Entry → Entry) (s : State) :
    (mapEntries f s).phase = s.phase ∧ (mapEntries f s).tickCount = s.tickCount ∧
    (mapEntries f s).straps = s.straps ∧ (mapEntries f s).settings = s.settings ∧
    (mapEntries f s).channels = s.channels ∧ (mapEntries f s).polls = s.polls ∧ (mapEntries f s).bus = s.bus ∧
    (mapEntries f s).views = s.views ∧ (mapEntries f s).attention = s.attention ∧
    (mapEntries f s).slots = s.slots ∧ (mapEntries f s).rings = s.rings ∧ (mapEntries f s).lease = s.lease ∧
    (mapEntries f s).links = s.links ∧ (mapEntries f s).pending = s.pending := by
  unfold mapEntries; simp

@[simp] theorem grantEntries_frame (c : ChannelId) (s : State) :
    (grantEntries c s).phase = s.phase ∧ (grantEntries c s).tickCount = s.tickCount ∧
    (grantEntries c s).straps = s.straps ∧ (grantEntries c s).settings = s.settings ∧
    (grantEntries c s).channels = s.channels ∧ (grantEntries c s).polls = s.polls ∧
    (grantEntries c s).bus = s.bus ∧ (grantEntries c s).views = s.views ∧
    (grantEntries c s).attention = s.attention ∧ (grantEntries c s).slots = s.slots ∧
    (grantEntries c s).rings = s.rings ∧ (grantEntries c s).lease = s.lease ∧ (grantEntries c s).links = s.links ∧
    (grantEntries c s).pending = s.pending := by
  unfold grantEntries; simp

@[simp] theorem fillEntries_frame (sel : EntryStage → Bool) (c : ChannelId) (x : EntryStatus) (s : State) :
    (fillEntries sel c x s).phase = s.phase ∧ (fillEntries sel c x s).tickCount = s.tickCount ∧
    (fillEntries sel c x s).straps = s.straps ∧ (fillEntries sel c x s).settings = s.settings ∧
    (fillEntries sel c x s).channels = s.channels ∧ (fillEntries sel c x s).polls = s.polls ∧
    (fillEntries sel c x s).bus = s.bus ∧ (fillEntries sel c x s).views = s.views ∧
    (fillEntries sel c x s).attention = s.attention ∧ (fillEntries sel c x s).slots = s.slots ∧
    (fillEntries sel c x s).rings = s.rings ∧ (fillEntries sel c x s).lease = s.lease ∧
    (fillEntries sel c x s).links = s.links ∧ (fillEntries sel c x s).pending = s.pending := by
  unfold fillEntries; simp

@[simp] theorem finishCapture_frame (s : State) (t : TriggerId) :
    (finishCapture s t).phase = s.phase ∧ (finishCapture s t).tickCount = s.tickCount ∧
    (finishCapture s t).straps = s.straps ∧ (finishCapture s t).settings = s.settings ∧
    (finishCapture s t).channels = s.channels ∧ (finishCapture s t).polls = s.polls ∧
    (finishCapture s t).bus = s.bus ∧ (finishCapture s t).views = s.views ∧
    (finishCapture s t).attention = s.attention ∧ (finishCapture s t).lease = s.lease ∧
    (finishCapture s t).links = s.links ∧ (finishCapture s t).pending = s.pending := by
  unfold finishCapture; split <;> simp

@[simp] theorem finishCaptures_frame (s : State) :
    (finishCaptures s).phase = s.phase ∧ (finishCaptures s).tickCount = s.tickCount ∧
    (finishCaptures s).straps = s.straps ∧ (finishCaptures s).settings = s.settings ∧
    (finishCaptures s).channels = s.channels ∧ (finishCaptures s).polls = s.polls ∧
    (finishCaptures s).bus = s.bus ∧ (finishCaptures s).views = s.views ∧
    (finishCaptures s).attention = s.attention ∧ (finishCaptures s).lease = s.lease ∧
    (finishCaptures s).links = s.links ∧ (finishCaptures s).pending = s.pending := by
  unfold finishCaptures
  refine ⟨?_, ?_, ?_, ?_, ?_, ?_, ?_, ?_, ?_, ?_, ?_, ?_⟩ <;> exact foldl_keeps _ _ (fun s x => by simp) _ s

@[simp] theorem requestRefresh_frame (s : State) (t : TriggerId) :
    (requestRefresh s t).phase = s.phase ∧ (requestRefresh s t).tickCount = s.tickCount ∧
    (requestRefresh s t).straps = s.straps ∧ (requestRefresh s t).settings = s.settings ∧
    (requestRefresh s t).channels = s.channels ∧ (requestRefresh s t).bus = s.bus ∧
    (requestRefresh s t).views = s.views ∧ (requestRefresh s t).attention = s.attention ∧
    (requestRefresh s t).triggers = s.triggers ∧ (requestRefresh s t).slots = s.slots ∧
    (requestRefresh s t).rings = s.rings ∧ (requestRefresh s t).lease = s.lease ∧
    (requestRefresh s t).links = s.links ∧ (requestRefresh s t).pending = s.pending := by
  unfold requestRefresh; simp

@[simp] theorem openCapture_frame (t : TriggerId) (e : Edge) (s : State) :
    (openCapture t e s).phase = s.phase ∧ (openCapture t e s).tickCount = s.tickCount ∧
    (openCapture t e s).straps = s.straps ∧ (openCapture t e s).settings = s.settings ∧
    (openCapture t e s).channels = s.channels ∧ (openCapture t e s).bus = s.bus ∧
    (openCapture t e s).views = s.views ∧ (openCapture t e s).attention = s.attention ∧
    (openCapture t e s).lease = s.lease ∧ (openCapture t e s).links = s.links ∧
    (openCapture t e s).pending = s.pending := by
  unfold openCapture; simp

@[simp] theorem qualifiedEdge_frame (t : TriggerId) (e : Edge) (s : State) :
    (qualifiedEdge t e s).phase = s.phase ∧ (qualifiedEdge t e s).tickCount = s.tickCount ∧
    (qualifiedEdge t e s).straps = s.straps ∧ (qualifiedEdge t e s).settings = s.settings ∧
    (qualifiedEdge t e s).channels = s.channels ∧ (qualifiedEdge t e s).bus = s.bus ∧
    (qualifiedEdge t e s).views = s.views ∧ (qualifiedEdge t e s).attention = s.attention ∧
    (qualifiedEdge t e s).lease = s.lease ∧ (qualifiedEdge t e s).links = s.links ∧
    (qualifiedEdge t e s).pending = s.pending := by
  unfold qualifiedEdge; split <;> simp

@[simp] theorem confirmEvent_frame (t : TriggerId) (s : State) :
    (confirmEvent t s).phase = s.phase ∧ (confirmEvent t s).tickCount = s.tickCount ∧
    (confirmEvent t s).straps = s.straps ∧ (confirmEvent t s).settings = s.settings ∧
    (confirmEvent t s).channels = s.channels ∧ (confirmEvent t s).bus = s.bus ∧
    (confirmEvent t s).views = s.views ∧ (confirmEvent t s).lease = s.lease ∧ (confirmEvent t s).links = s.links ∧
    (confirmEvent t s).pending = s.pending := by
  unfold confirmEvent; dsimp only; (repeat' split) <;> simp

@[simp] theorem enableChannel_frame (c : ChannelId) (s : State) :
    (enableChannel c s).phase = s.phase ∧ (enableChannel c s).tickCount = s.tickCount ∧
    (enableChannel c s).straps = s.straps ∧ (enableChannel c s).settings = s.settings ∧
    (enableChannel c s).bus = s.bus ∧ (enableChannel c s).views = s.views ∧
    (enableChannel c s).attention = s.attention ∧ (enableChannel c s).triggers = s.triggers ∧
    (enableChannel c s).slots = s.slots ∧ (enableChannel c s).rings = s.rings ∧
    (enableChannel c s).lease = s.lease ∧ (enableChannel c s).links = s.links ∧
    (enableChannel c s).pending = s.pending := by
  unfold enableChannel; simp

@[simp] theorem disableChannel_frame (c : ChannelId) (s : State) :
    (disableChannel c s).phase = s.phase ∧ (disableChannel c s).tickCount = s.tickCount ∧
    (disableChannel c s).straps = s.straps ∧ (disableChannel c s).settings = s.settings ∧
    (disableChannel c s).views = s.views ∧ (disableChannel c s).attention = s.attention ∧
    (disableChannel c s).lease = s.lease ∧ (disableChannel c s).links = s.links ∧
    (disableChannel c s).pending = s.pending := by
  unfold disableChannel; simp

@[simp] theorem identifySuccess_frame (c : ChannelId) (s : State) :
    (identifySuccess c s).phase = s.phase ∧ (identifySuccess c s).tickCount = s.tickCount ∧
    (identifySuccess c s).straps = s.straps ∧ (identifySuccess c s).settings = s.settings ∧
    (identifySuccess c s).bus = s.bus ∧ (identifySuccess c s).views = s.views ∧
    (identifySuccess c s).attention = s.attention ∧ (identifySuccess c s).triggers = s.triggers ∧
    (identifySuccess c s).slots = s.slots ∧ (identifySuccess c s).rings = s.rings ∧
    (identifySuccess c s).lease = s.lease ∧ (identifySuccess c s).links = s.links ∧
    (identifySuccess c s).pending = s.pending := by
  unfold identifySuccess; simp

@[simp] theorem identifyFailure_frame (c : ChannelId) (x : FaultCause) (s : State) :
    (identifyFailure c x s).phase = s.phase ∧ (identifyFailure c x s).tickCount = s.tickCount ∧
    (identifyFailure c x s).straps = s.straps ∧ (identifyFailure c x s).settings = s.settings ∧
    (identifyFailure c x s).bus = s.bus ∧ (identifyFailure c x s).views = s.views ∧
    (identifyFailure c x s).attention = s.attention ∧ (identifyFailure c x s).triggers = s.triggers ∧
    (identifyFailure c x s).slots = s.slots ∧ (identifyFailure c x s).rings = s.rings ∧
    (identifyFailure c x s).lease = s.lease ∧ (identifyFailure c x s).links = s.links ∧
    (identifyFailure c x s).pending = s.pending := by
  unfold identifyFailure; simp

@[simp] theorem motionSuccess_frame (c : ChannelId) (x y : BitVec 12) (q : Byte) (s : State) :
    (motionSuccess c x y q s).phase = s.phase ∧ (motionSuccess c x y q s).tickCount = s.tickCount ∧
    (motionSuccess c x y q s).straps = s.straps ∧ (motionSuccess c x y q s).settings = s.settings ∧
    (motionSuccess c x y q s).bus = s.bus ∧ (motionSuccess c x y q s).attention = s.attention ∧
    (motionSuccess c x y q s).lease = s.lease ∧ (motionSuccess c x y q s).links = s.links ∧
    (motionSuccess c x y q s).pending = s.pending := by
  unfold motionSuccess; simp

@[simp] theorem motionFailure_frame (c : ChannelId) (x : FaultCause) (s : State) :
    (motionFailure c x s).phase = s.phase ∧ (motionFailure c x s).tickCount = s.tickCount ∧
    (motionFailure c x s).straps = s.straps ∧ (motionFailure c x s).settings = s.settings ∧
    (motionFailure c x s).bus = s.bus ∧ (motionFailure c x s).attention = s.attention ∧
    (motionFailure c x s).lease = s.lease ∧ (motionFailure c x s).links = s.links ∧
    (motionFailure c x s).pending = s.pending := by
  unfold motionFailure; simp

@[simp] theorem discardedCompletion_frame (e : Exchange) (s : State) :
    (discardedCompletion e s).phase = s.phase ∧ (discardedCompletion e s).tickCount = s.tickCount ∧
    (discardedCompletion e s).straps = s.straps ∧ (discardedCompletion e s).settings = s.settings ∧
    (discardedCompletion e s).channels = s.channels ∧ (discardedCompletion e s).polls = s.polls ∧
    (discardedCompletion e s).bus = s.bus ∧ (discardedCompletion e s).attention = s.attention ∧
    (discardedCompletion e s).triggers = s.triggers ∧ (discardedCompletion e s).slots = s.slots ∧
    (discardedCompletion e s).rings = s.rings ∧ (discardedCompletion e s).lease = s.lease ∧
    (discardedCompletion e s).links = s.links ∧ (discardedCompletion e s).pending = s.pending := by
  unfold discardedCompletion; split <;> simp

@[simp] theorem applyOutcome_frame (e : Exchange) (o : ExchangeOutcome) (s : State) :
    (applyOutcome e o s).phase = s.phase ∧ (applyOutcome e o s).tickCount = s.tickCount ∧
    (applyOutcome e o s).straps = s.straps ∧ (applyOutcome e o s).settings = s.settings ∧
    (applyOutcome e o s).bus = s.bus ∧ (applyOutcome e o s).attention = s.attention ∧
    (applyOutcome e o s).lease = s.lease ∧ (applyOutcome e o s).links = s.links ∧
    (applyOutcome e o s).pending = s.pending := by
  unfold applyOutcome; split <;> simp

@[simp] theorem applyCompletion_frame (e : Exchange) (o : ExchangeOutcome) (s : State) :
    (applyCompletion e o s).phase = s.phase ∧ (applyCompletion e o s).tickCount = s.tickCount ∧
    (applyCompletion e o s).straps = s.straps ∧ (applyCompletion e o s).settings = s.settings ∧
    (applyCompletion e o s).bus = s.bus ∧ (applyCompletion e o s).attention = s.attention ∧
    (applyCompletion e o s).lease = s.lease ∧ (applyCompletion e o s).links = s.links ∧
    (applyCompletion e o s).pending = s.pending := by
  unfold applyCompletion; split <;> simp

@[simp] theorem completeExchange_frame (e : Exchange) (o : ExchangeOutcome) (s : State) :
    (completeExchange e o s).phase = s.phase ∧ (completeExchange e o s).tickCount = s.tickCount ∧
    (completeExchange e o s).straps = s.straps ∧ (completeExchange e o s).settings = s.settings ∧
    (completeExchange e o s).lease = s.lease ∧ (completeExchange e o s).links = s.links ∧
    (completeExchange e o s).pending = s.pending := by
  unfold completeExchange; simp

@[simp] theorem exchangeEvent_frame (sdi : List (Samples 8)) (s : State) :
    (exchangeEvent sdi s).phase = s.phase ∧ (exchangeEvent sdi s).tickCount = s.tickCount ∧
    (exchangeEvent sdi s).straps = s.straps ∧ (exchangeEvent sdi s).settings = s.settings ∧
    (exchangeEvent sdi s).lease = s.lease ∧ (exchangeEvent sdi s).links = s.links ∧
    (exchangeEvent sdi s).pending = s.pending := by
  unfold exchangeEvent; (repeat' split) <;> simp

@[simp] theorem grantTo_frame (c : ChannelId) (k : ExchangeKind) (s : State) :
    (grantTo c k s).phase = s.phase ∧ (grantTo c k s).tickCount = s.tickCount ∧ (grantTo c k s).straps = s.straps ∧
    (grantTo c k s).settings = s.settings ∧ (grantTo c k s).channels = s.channels ∧
    (grantTo c k s).views = s.views ∧ (grantTo c k s).attention = s.attention ∧ (grantTo c k s).slots = s.slots ∧
    (grantTo c k s).rings = s.rings ∧ (grantTo c k s).lease = s.lease ∧ (grantTo c k s).links = s.links ∧
    (grantTo c k s).pending = s.pending := by
  unfold grantTo; simp

@[simp] theorem grantEvent_frame (s : State) :
    (grantEvent s).phase = s.phase ∧ (grantEvent s).tickCount = s.tickCount ∧ (grantEvent s).straps = s.straps ∧
    (grantEvent s).settings = s.settings ∧ (grantEvent s).channels = s.channels ∧ (grantEvent s).views = s.views ∧
    (grantEvent s).attention = s.attention ∧ (grantEvent s).slots = s.slots ∧ (grantEvent s).rings = s.rings ∧
    (grantEvent s).lease = s.lease ∧ (grantEvent s).links = s.links ∧ (grantEvent s).pending = s.pending := by
  unfold grantEvent; (repeat' split) <;> simp

@[simp] theorem runSettingRead_frame (l : LinkId) (p : List Byte) (s : State) :
    (runSettingRead l p s).phase = s.phase ∧ (runSettingRead l p s).tickCount = s.tickCount ∧
    (runSettingRead l p s).straps = s.straps ∧ (runSettingRead l p s).settings = s.settings ∧
    (runSettingRead l p s).channels = s.channels ∧ (runSettingRead l p s).polls = s.polls ∧
    (runSettingRead l p s).bus = s.bus ∧ (runSettingRead l p s).views = s.views ∧
    (runSettingRead l p s).attention = s.attention ∧ (runSettingRead l p s).triggers = s.triggers ∧
    (runSettingRead l p s).slots = s.slots ∧ (runSettingRead l p s).rings = s.rings ∧
    (runSettingRead l p s).lease = s.lease ∧ (runSettingRead l p s).pending = s.pending := by
  unfold runSettingRead; split <;> simp

@[simp] theorem applyEnable_frame (o n : Settings) (s : State) (c : ChannelId) :
    (applyEnable o n s c).phase = s.phase ∧ (applyEnable o n s c).tickCount = s.tickCount ∧
    (applyEnable o n s c).straps = s.straps ∧ (applyEnable o n s c).settings = s.settings ∧
    (applyEnable o n s c).views = s.views ∧ (applyEnable o n s c).attention = s.attention ∧
    (applyEnable o n s c).lease = s.lease ∧ (applyEnable o n s c).links = s.links ∧
    (applyEnable o n s c).pending = s.pending := by
  unfold applyEnable; split <;> simp

@[simp] theorem applyForcedTier_frame (r : List Setting) (o n : Settings) (s : State) (c : ChannelId) :
    (applyForcedTier r o n s c).phase = s.phase ∧ (applyForcedTier r o n s c).tickCount = s.tickCount ∧
    (applyForcedTier r o n s c).straps = s.straps ∧ (applyForcedTier r o n s c).settings = s.settings ∧
    (applyForcedTier r o n s c).channels = s.channels ∧ (applyForcedTier r o n s c).bus = s.bus ∧
    (applyForcedTier r o n s c).views = s.views ∧ (applyForcedTier r o n s c).attention = s.attention ∧
    (applyForcedTier r o n s c).triggers = s.triggers ∧ (applyForcedTier r o n s c).slots = s.slots ∧
    (applyForcedTier r o n s c).rings = s.rings ∧ (applyForcedTier r o n s c).lease = s.lease ∧
    (applyForcedTier r o n s c).links = s.links ∧ (applyForcedTier r o n s c).pending = s.pending := by
  unfold applyForcedTier; (repeat' split) <;> simp

@[simp] theorem applyTriggerEnable_frame (o n : Settings) (s : State) (t : TriggerId) :
    (applyTriggerEnable o n s t).phase = s.phase ∧ (applyTriggerEnable o n s t).tickCount = s.tickCount ∧
    (applyTriggerEnable o n s t).straps = s.straps ∧ (applyTriggerEnable o n s t).settings = s.settings ∧
    (applyTriggerEnable o n s t).channels = s.channels ∧ (applyTriggerEnable o n s t).polls = s.polls ∧
    (applyTriggerEnable o n s t).bus = s.bus ∧ (applyTriggerEnable o n s t).views = s.views ∧
    (applyTriggerEnable o n s t).attention = s.attention ∧ (applyTriggerEnable o n s t).slots = s.slots ∧
    (applyTriggerEnable o n s t).rings = s.rings ∧ (applyTriggerEnable o n s t).lease = s.lease ∧
    (applyTriggerEnable o n s t).links = s.links ∧ (applyTriggerEnable o n s t).pending = s.pending := by
  unfold applyTriggerEnable; split <;> simp

@[simp] theorem applyEnables_frame (o n : Settings) (cs : List ChannelId) (s : State) :
    (cs.foldl (applyEnable o n) s).phase = s.phase ∧ (cs.foldl (applyEnable o n) s).tickCount = s.tickCount ∧
    (cs.foldl (applyEnable o n) s).straps = s.straps ∧ (cs.foldl (applyEnable o n) s).settings = s.settings ∧
    (cs.foldl (applyEnable o n) s).views = s.views ∧ (cs.foldl (applyEnable o n) s).attention = s.attention ∧
    (cs.foldl (applyEnable o n) s).lease = s.lease ∧ (cs.foldl (applyEnable o n) s).links = s.links ∧
    (cs.foldl (applyEnable o n) s).pending = s.pending := by
  refine ⟨?_, ?_, ?_, ?_, ?_, ?_, ?_, ?_, ?_⟩ <;> exact foldl_keeps _ _ (fun s x => by simp) _ s

@[simp] theorem applyForcedTiers_frame (r : List Setting) (o n : Settings) (cs : List ChannelId) (s : State) :
    (cs.foldl (applyForcedTier r o n) s).phase = s.phase ∧
    (cs.foldl (applyForcedTier r o n) s).tickCount = s.tickCount ∧
    (cs.foldl (applyForcedTier r o n) s).straps = s.straps ∧
    (cs.foldl (applyForcedTier r o n) s).settings = s.settings ∧
    (cs.foldl (applyForcedTier r o n) s).channels = s.channels ∧ (cs.foldl (applyForcedTier r o n) s).bus = s.bus ∧
    (cs.foldl (applyForcedTier r o n) s).views = s.views ∧
    (cs.foldl (applyForcedTier r o n) s).attention = s.attention ∧
    (cs.foldl (applyForcedTier r o n) s).triggers = s.triggers ∧
    (cs.foldl (applyForcedTier r o n) s).slots = s.slots ∧ (cs.foldl (applyForcedTier r o n) s).rings = s.rings ∧
    (cs.foldl (applyForcedTier r o n) s).lease = s.lease ∧ (cs.foldl (applyForcedTier r o n) s).links = s.links ∧
    (cs.foldl (applyForcedTier r o n) s).pending = s.pending := by
  refine ⟨?_, ?_, ?_, ?_, ?_, ?_, ?_, ?_, ?_, ?_, ?_, ?_, ?_, ?_⟩ <;> exact foldl_keeps _ _ (fun s x => by simp) _ s

@[simp] theorem applyTriggerEnables_frame (o n : Settings) (ts : List TriggerId) (s : State) :
    (ts.foldl (applyTriggerEnable o n) s).phase = s.phase ∧
    (ts.foldl (applyTriggerEnable o n) s).tickCount = s.tickCount ∧
    (ts.foldl (applyTriggerEnable o n) s).straps = s.straps ∧
    (ts.foldl (applyTriggerEnable o n) s).settings = s.settings ∧
    (ts.foldl (applyTriggerEnable o n) s).channels = s.channels ∧
    (ts.foldl (applyTriggerEnable o n) s).polls = s.polls ∧ (ts.foldl (applyTriggerEnable o n) s).bus = s.bus ∧
    (ts.foldl (applyTriggerEnable o n) s).views = s.views ∧
    (ts.foldl (applyTriggerEnable o n) s).attention = s.attention ∧
    (ts.foldl (applyTriggerEnable o n) s).slots = s.slots ∧ (ts.foldl (applyTriggerEnable o n) s).rings = s.rings ∧
    (ts.foldl (applyTriggerEnable o n) s).lease = s.lease ∧ (ts.foldl (applyTriggerEnable o n) s).links = s.links ∧
    (ts.foldl (applyTriggerEnable o n) s).pending = s.pending := by
  refine ⟨?_, ?_, ?_, ?_, ?_, ?_, ?_, ?_, ?_, ?_, ?_, ?_, ?_, ?_⟩ <;> exact foldl_keeps _ _ (fun s x => by simp) _ s

@[simp] theorem applyOwn_frame (l : LinkId) (v : ViewSettings) (s : State) :
    (applyOwn l v s).phase = s.phase ∧ (applyOwn l v s).tickCount = s.tickCount ∧
    (applyOwn l v s).straps = s.straps ∧ (applyOwn l v s).settings = s.settings ∧
    (applyOwn l v s).channels = s.channels ∧ (applyOwn l v s).polls = s.polls ∧ (applyOwn l v s).bus = s.bus ∧
    (applyOwn l v s).attention = s.attention ∧ (applyOwn l v s).triggers = s.triggers ∧
    (applyOwn l v s).slots = s.slots ∧ (applyOwn l v s).rings = s.rings ∧ (applyOwn l v s).lease = s.lease ∧
    (applyOwn l v s).links = s.links ∧ (applyOwn l v s).pending = s.pending := by
  unfold applyOwn; simp

@[simp] theorem applyPlacement_frame (l : LinkId) (r : List Setting) (s : State) :
    (applyPlacement l r s).phase = s.phase ∧ (applyPlacement l r s).tickCount = s.tickCount ∧
    (applyPlacement l r s).straps = s.straps ∧ (applyPlacement l r s).settings = s.settings ∧
    (applyPlacement l r s).channels = s.channels ∧ (applyPlacement l r s).polls = s.polls ∧
    (applyPlacement l r s).bus = s.bus ∧ (applyPlacement l r s).views = s.views ∧
    (applyPlacement l r s).attention = s.attention ∧ (applyPlacement l r s).triggers = s.triggers ∧
    (applyPlacement l r s).lease = s.lease ∧ (applyPlacement l r s).links = s.links ∧
    (applyPlacement l r s).pending = s.pending := by
  unfold applyPlacement; split <;> simp

@[simp] theorem applyAttentionMode_frame (l : LinkId) (m : AttentionMode) (s : State) :
    (applyAttentionMode l m s).phase = s.phase ∧ (applyAttentionMode l m s).tickCount = s.tickCount ∧
    (applyAttentionMode l m s).straps = s.straps ∧ (applyAttentionMode l m s).settings = s.settings ∧
    (applyAttentionMode l m s).channels = s.channels ∧ (applyAttentionMode l m s).polls = s.polls ∧
    (applyAttentionMode l m s).bus = s.bus ∧ (applyAttentionMode l m s).views = s.views ∧
    (applyAttentionMode l m s).triggers = s.triggers ∧ (applyAttentionMode l m s).slots = s.slots ∧
    (applyAttentionMode l m s).rings = s.rings ∧ (applyAttentionMode l m s).lease = s.lease ∧
    (applyAttentionMode l m s).links = s.links ∧ (applyAttentionMode l m s).pending = s.pending := by
  unfold applyAttentionMode; split <;> simp

@[simp] theorem applyWrite_frame (l : LinkId) (w : AcceptedWrite) (s : State) :
    (applyWrite l w s).phase = s.phase ∧ (applyWrite l w s).tickCount = s.tickCount ∧
    (applyWrite l w s).straps = s.straps ∧ (applyWrite l w s).lease = s.lease ∧
    (applyWrite l w s).links = s.links ∧ (applyWrite l w s).pending = s.pending := by
  unfold applyWrite; simp

@[simp] theorem runSettingWrite_frame (l : LinkId) (p : List Byte) (s : State) :
    (runSettingWrite l p s).phase = s.phase ∧ (runSettingWrite l p s).tickCount = s.tickCount ∧
    (runSettingWrite l p s).straps = s.straps ∧ (runSettingWrite l p s).lease = s.lease ∧
    (runSettingWrite l p s).pending = s.pending := by
  unfold runSettingWrite; split <;> simp

@[simp] theorem runPreset_frame (l : LinkId) (p : List Byte) (s : State) :
    (runPreset l p s).phase = s.phase ∧ (runPreset l p s).tickCount = s.tickCount ∧
    (runPreset l p s).straps = s.straps ∧ (runPreset l p s).settings = s.settings ∧
    (runPreset l p s).polls = s.polls ∧ (runPreset l p s).bus = s.bus ∧ (runPreset l p s).views = s.views ∧
    (runPreset l p s).attention = s.attention ∧ (runPreset l p s).triggers = s.triggers ∧
    (runPreset l p s).slots = s.slots ∧ (runPreset l p s).rings = s.rings ∧ (runPreset l p s).lease = s.lease ∧
    (runPreset l p s).pending = s.pending := by
  unfold runPreset; split <;> simp

@[simp] theorem headerEvent_frame (l : LinkId) (a b c d : Byte) (s : State) :
    (headerEvent l a b c d s).phase = s.phase ∧ (headerEvent l a b c d s).tickCount = s.tickCount ∧
    (headerEvent l a b c d s).straps = s.straps ∧ (headerEvent l a b c d s).settings = s.settings ∧
    (headerEvent l a b c d s).channels = s.channels ∧ (headerEvent l a b c d s).polls = s.polls ∧
    (headerEvent l a b c d s).bus = s.bus ∧ (headerEvent l a b c d s).views = s.views ∧
    (headerEvent l a b c d s).attention = s.attention ∧ (headerEvent l a b c d s).triggers = s.triggers ∧
    (headerEvent l a b c d s).slots = s.slots ∧ (headerEvent l a b c d s).rings = s.rings ∧
    (headerEvent l a b c d s).pending = s.pending := by
  unfold headerEvent; dsimp only; split <;> simp

@[simp] theorem receiveByte_frame (l : LinkId) (b : Byte) (s : State) :
    (receiveByte l b s).phase = s.phase ∧ (receiveByte l b s).tickCount = s.tickCount ∧
    (receiveByte l b s).straps = s.straps ∧ (receiveByte l b s).settings = s.settings ∧
    (receiveByte l b s).channels = s.channels ∧ (receiveByte l b s).polls = s.polls ∧
    (receiveByte l b s).bus = s.bus ∧ (receiveByte l b s).views = s.views ∧
    (receiveByte l b s).attention = s.attention ∧ (receiveByte l b s).triggers = s.triggers ∧
    (receiveByte l b s).slots = s.slots ∧ (receiveByte l b s).rings = s.rings ∧
    (receiveByte l b s).pending = s.pending := by
  unfold receiveByte; (repeat' split) <;> simp

@[simp] theorem recordContention_frame (l : LinkId) (s : State) :
    (recordContention l s).phase = s.phase ∧ (recordContention l s).tickCount = s.tickCount ∧
    (recordContention l s).straps = s.straps ∧ (recordContention l s).settings = s.settings ∧
    (recordContention l s).channels = s.channels ∧ (recordContention l s).polls = s.polls ∧
    (recordContention l s).bus = s.bus ∧ (recordContention l s).views = s.views ∧
    (recordContention l s).attention = s.attention ∧ (recordContention l s).triggers = s.triggers ∧
    (recordContention l s).slots = s.slots ∧ (recordContention l s).rings = s.rings ∧
    (recordContention l s).lease = s.lease ∧ (recordContention l s).pending = s.pending := by
  unfold recordContention; simp

@[simp] theorem takeCharacter_frame (l : LinkId) (b : Samples 10) (s : State) :
    (takeCharacter l b s).phase = s.phase ∧ (takeCharacter l b s).tickCount = s.tickCount ∧
    (takeCharacter l b s).straps = s.straps ∧ (takeCharacter l b s).settings = s.settings ∧
    (takeCharacter l b s).channels = s.channels ∧ (takeCharacter l b s).polls = s.polls ∧ (takeCharacter l b s).bus = s.bus ∧
    (takeCharacter l b s).views = s.views ∧ (takeCharacter l b s).attention = s.attention ∧
    (takeCharacter l b s).triggers = s.triggers ∧ (takeCharacter l b s).slots = s.slots ∧ (takeCharacter l b s).rings = s.rings ∧
    (takeCharacter l b s).pending = s.pending := by
  unfold takeCharacter; (repeat' split) <;> simp

@[simp] theorem takeBytes_frame (l : LinkId) (bs : List Byte) (s : State) :
    (takeBytes l bs s).phase = s.phase ∧ (takeBytes l bs s).tickCount = s.tickCount ∧
    (takeBytes l bs s).straps = s.straps ∧ (takeBytes l bs s).settings = s.settings ∧
    (takeBytes l bs s).channels = s.channels ∧ (takeBytes l bs s).polls = s.polls ∧
    (takeBytes l bs s).bus = s.bus ∧ (takeBytes l bs s).views = s.views ∧
    (takeBytes l bs s).attention = s.attention ∧ (takeBytes l bs s).triggers = s.triggers ∧
    (takeBytes l bs s).slots = s.slots ∧ (takeBytes l bs s).rings = s.rings ∧
    (takeBytes l bs s).pending = s.pending := by
  unfold takeBytes
  refine ⟨?_, ?_, ?_, ?_, ?_, ?_, ?_, ?_, ?_, ?_, ?_, ?_, ?_⟩ <;> exact foldl_keeps _ _ (fun s x => by simp) _ s

@[simp] theorem fourthByte_frame (l : LinkId) (b : Byte) (s : State) :
    (fourthByte l b s).phase = s.phase ∧ (fourthByte l b s).tickCount = s.tickCount ∧
    (fourthByte l b s).straps = s.straps ∧ (fourthByte l b s).settings = s.settings ∧
    (fourthByte l b s).channels = s.channels ∧ (fourthByte l b s).polls = s.polls ∧
    (fourthByte l b s).bus = s.bus ∧ (fourthByte l b s).views = s.views ∧
    (fourthByte l b s).attention = s.attention ∧ (fourthByte l b s).triggers = s.triggers ∧
    (fourthByte l b s).slots = s.slots ∧ (fourthByte l b s).rings = s.rings ∧
    (fourthByte l b s).pending = s.pending := by
  unfold fourthByte; split <;> simp

@[simp] theorem lastCrcByte_frame (l : LinkId) (b : Byte) (s : State) :
    (lastCrcByte l b s).phase = s.phase ∧ (lastCrcByte l b s).tickCount = s.tickCount ∧
    (lastCrcByte l b s).straps = s.straps ∧ (lastCrcByte l b s).settings = s.settings ∧
    (lastCrcByte l b s).channels = s.channels ∧ (lastCrcByte l b s).polls = s.polls ∧
    (lastCrcByte l b s).bus = s.bus ∧ (lastCrcByte l b s).views = s.views ∧
    (lastCrcByte l b s).attention = s.attention ∧ (lastCrcByte l b s).triggers = s.triggers ∧
    (lastCrcByte l b s).slots = s.slots ∧ (lastCrcByte l b s).rings = s.rings ∧
    (lastCrcByte l b s).lease = s.lease ∧ (lastCrcByte l b s).pending = s.pending := by
  unfold lastCrcByte; split <;> simp

@[simp] theorem framingEvent_frame (l : LinkId) (s : State) :
    (framingEvent l s).phase = s.phase ∧ (framingEvent l s).tickCount = s.tickCount ∧
    (framingEvent l s).straps = s.straps ∧ (framingEvent l s).settings = s.settings ∧
    (framingEvent l s).channels = s.channels ∧ (framingEvent l s).polls = s.polls ∧
    (framingEvent l s).bus = s.bus ∧ (framingEvent l s).views = s.views ∧
    (framingEvent l s).attention = s.attention ∧ (framingEvent l s).triggers = s.triggers ∧
    (framingEvent l s).slots = s.slots ∧ (framingEvent l s).rings = s.rings ∧ (framingEvent l s).lease = s.lease ∧
    (framingEvent l s).pending = s.pending := by
  unfold framingEvent; split <;> simp

@[simp] theorem contentionEvent_frame (l : LinkId) (s : State) :
    (contentionEvent l s).phase = s.phase ∧ (contentionEvent l s).tickCount = s.tickCount ∧
    (contentionEvent l s).straps = s.straps ∧ (contentionEvent l s).settings = s.settings ∧
    (contentionEvent l s).channels = s.channels ∧ (contentionEvent l s).polls = s.polls ∧
    (contentionEvent l s).bus = s.bus ∧ (contentionEvent l s).views = s.views ∧
    (contentionEvent l s).attention = s.attention ∧ (contentionEvent l s).triggers = s.triggers ∧
    (contentionEvent l s).slots = s.slots ∧ (contentionEvent l s).rings = s.rings ∧
    (contentionEvent l s).lease = s.lease ∧ (contentionEvent l s).pending = s.pending := by
  unfold contentionEvent; split <;> simp

@[simp] theorem runLinkStatus_frame (l : LinkId) (s : State) :
    (runLinkStatus l s).phase = s.phase ∧ (runLinkStatus l s).tickCount = s.tickCount ∧
    (runLinkStatus l s).straps = s.straps ∧ (runLinkStatus l s).settings = s.settings ∧
    (runLinkStatus l s).channels = s.channels ∧ (runLinkStatus l s).polls = s.polls ∧
    (runLinkStatus l s).bus = s.bus ∧ (runLinkStatus l s).views = s.views ∧
    (runLinkStatus l s).attention = s.attention ∧ (runLinkStatus l s).triggers = s.triggers ∧
    (runLinkStatus l s).slots = s.slots ∧ (runLinkStatus l s).rings = s.rings ∧
    (runLinkStatus l s).lease = s.lease ∧ (runLinkStatus l s).pending = s.pending := by
  unfold runLinkStatus; simp

@[simp] theorem deliverStatus_frame (l : LinkId) (s : State) :
    (deliverStatus l s).phase = s.phase ∧ (deliverStatus l s).tickCount = s.tickCount ∧
    (deliverStatus l s).straps = s.straps ∧ (deliverStatus l s).settings = s.settings ∧
    (deliverStatus l s).channels = s.channels ∧ (deliverStatus l s).polls = s.polls ∧
    (deliverStatus l s).bus = s.bus ∧ (deliverStatus l s).triggers = s.triggers ∧
    (deliverStatus l s).slots = s.slots ∧ (deliverStatus l s).rings = s.rings ∧
    (deliverStatus l s).lease = s.lease ∧ (deliverStatus l s).pending = s.pending := by
  unfold deliverStatus; split <;> simp

@[simp] theorem abortStatus_frame (l : LinkId) (s : State) :
    (abortStatus l s).phase = s.phase ∧ (abortStatus l s).tickCount = s.tickCount ∧
    (abortStatus l s).straps = s.straps ∧ (abortStatus l s).settings = s.settings ∧
    (abortStatus l s).channels = s.channels ∧ (abortStatus l s).polls = s.polls ∧ (abortStatus l s).bus = s.bus ∧
    (abortStatus l s).attention = s.attention ∧ (abortStatus l s).triggers = s.triggers ∧
    (abortStatus l s).slots = s.slots ∧ (abortStatus l s).rings = s.rings ∧ (abortStatus l s).lease = s.lease ∧
    (abortStatus l s).pending = s.pending := by
  unfold abortStatus; simp

@[simp] theorem runRequest_frame (l : LinkId) (r : Request) (s : State) :
    (runRequest l r s).phase = s.phase ∧ (runRequest l r s).tickCount = s.tickCount ∧
    (runRequest l r s).straps = s.straps ∧ (runRequest l r s).pending = s.pending := by
  unfold runRequest; split <;> simp

@[simp] theorem execute_frame (l : LinkId) (r : Request) (rs : List Request) (s : State) :
    (execute l r rs s).phase = s.phase ∧ (execute l r rs s).tickCount = s.tickCount ∧
    (execute l r rs s).straps = s.straps ∧ (execute l r rs s).pending = s.pending := by
  unfold execute; simp

@[simp] theorem composeTurn_frame (l : LinkId) (s : State) :
    (composeTurn l s).phase = s.phase ∧ (composeTurn l s).tickCount = s.tickCount ∧
    (composeTurn l s).straps = s.straps ∧ (composeTurn l s).settings = s.settings ∧
    (composeTurn l s).channels = s.channels ∧ (composeTurn l s).polls = s.polls ∧ (composeTurn l s).bus = s.bus ∧
    (composeTurn l s).views = s.views ∧ (composeTurn l s).attention = s.attention ∧
    (composeTurn l s).triggers = s.triggers ∧ (composeTurn l s).slots = s.slots ∧
    (composeTurn l s).rings = s.rings ∧ (composeTurn l s).lease = s.lease ∧ (composeTurn l s).pending = s.pending := by
  unfold composeTurn; simp

@[simp] theorem composeClosing_frame (l : LinkId) (s : State) :
    (composeClosing l s).phase = s.phase ∧ (composeClosing l s).tickCount = s.tickCount ∧
    (composeClosing l s).straps = s.straps ∧ (composeClosing l s).settings = s.settings ∧
    (composeClosing l s).channels = s.channels ∧ (composeClosing l s).polls = s.polls ∧
    (composeClosing l s).bus = s.bus ∧ (composeClosing l s).views = s.views ∧
    (composeClosing l s).attention = s.attention ∧ (composeClosing l s).triggers = s.triggers ∧
    (composeClosing l s).slots = s.slots ∧ (composeClosing l s).rings = s.rings ∧
    (composeClosing l s).lease = s.lease ∧ (composeClosing l s).pending = s.pending := by
  unfold composeClosing; split <;> simp

@[simp] theorem composeNext_frame (l : LinkId) (s : State) :
    (composeNext l s).phase = s.phase ∧ (composeNext l s).tickCount = s.tickCount ∧
    (composeNext l s).straps = s.straps ∧ (composeNext l s).pending = s.pending := by
  unfold composeNext; split <;> simp

@[simp] theorem deliverFrame_frame (l : LinkId) (k : ReplyKind) (s : State) :
    (deliverFrame l k s).phase = s.phase ∧ (deliverFrame l k s).tickCount = s.tickCount ∧
    (deliverFrame l k s).straps = s.straps ∧ (deliverFrame l k s).settings = s.settings ∧
    (deliverFrame l k s).channels = s.channels ∧ (deliverFrame l k s).polls = s.polls ∧
    (deliverFrame l k s).bus = s.bus ∧ (deliverFrame l k s).triggers = s.triggers ∧
    (deliverFrame l k s).lease = s.lease ∧ (deliverFrame l k s).pending = s.pending := by
  unfold deliverFrame; split <;> simp

@[simp] theorem endTurn_frame (l : LinkId) (s : State) :
    (endTurn l s).phase = s.phase ∧ (endTurn l s).tickCount = s.tickCount ∧ (endTurn l s).straps = s.straps ∧
    (endTurn l s).settings = s.settings ∧ (endTurn l s).channels = s.channels ∧ (endTurn l s).polls = s.polls ∧
    (endTurn l s).bus = s.bus ∧ (endTurn l s).views = s.views ∧ (endTurn l s).attention = s.attention ∧
    (endTurn l s).triggers = s.triggers ∧ (endTurn l s).slots = s.slots ∧ (endTurn l s).rings = s.rings ∧
    (endTurn l s).lease = s.lease ∧ (endTurn l s).pending = s.pending := by
  unfold endTurn; simp

@[simp] theorem afterDelivery_frame (l : LinkId) (k : ReplyKind) (s : State) :
    (afterDelivery l k s).phase = s.phase ∧ (afterDelivery l k s).tickCount = s.tickCount ∧
    (afterDelivery l k s).straps = s.straps ∧ (afterDelivery l k s).pending = s.pending := by
  unfold afterDelivery; split <;> simp

@[simp] theorem guardEndEvent_frame (l : LinkId) (s : State) :
    (guardEndEvent l s).phase = s.phase ∧ (guardEndEvent l s).tickCount = s.tickCount ∧
    (guardEndEvent l s).straps = s.straps ∧ (guardEndEvent l s).pending = s.pending := by
  unfold guardEndEvent; split <;> simp

@[simp] theorem deliveryEvent_frame (l : LinkId) (s : State) :
    (deliveryEvent l s).phase = s.phase ∧ (deliveryEvent l s).tickCount = s.tickCount ∧
    (deliveryEvent l s).straps = s.straps ∧ (deliveryEvent l s).pending = s.pending := by
  unfold deliveryEvent; split <;> simp

@[simp] theorem abortFrame_frame (l : LinkId) (k : ReplyKind) (s : State) :
    (abortFrame l k s).phase = s.phase ∧ (abortFrame l k s).tickCount = s.tickCount ∧
    (abortFrame l k s).straps = s.straps ∧ (abortFrame l k s).settings = s.settings ∧
    (abortFrame l k s).channels = s.channels ∧ (abortFrame l k s).polls = s.polls ∧
    (abortFrame l k s).bus = s.bus ∧ (abortFrame l k s).attention = s.attention ∧
    (abortFrame l k s).triggers = s.triggers ∧ (abortFrame l k s).slots = s.slots ∧
    (abortFrame l k s).lease = s.lease ∧ (abortFrame l k s).pending = s.pending := by
  unfold abortFrame; split <;> simp

@[simp] theorem abortTransmission_frame (l : LinkId) (s : State) :
    (abortTransmission l s).phase = s.phase ∧ (abortTransmission l s).tickCount = s.tickCount ∧
    (abortTransmission l s).straps = s.straps ∧ (abortTransmission l s).settings = s.settings ∧
    (abortTransmission l s).channels = s.channels ∧ (abortTransmission l s).polls = s.polls ∧
    (abortTransmission l s).bus = s.bus ∧ (abortTransmission l s).attention = s.attention ∧
    (abortTransmission l s).triggers = s.triggers ∧ (abortTransmission l s).slots = s.slots ∧
    (abortTransmission l s).lease = s.lease ∧ (abortTransmission l s).pending = s.pending := by
  unfold abortTransmission; split <;> simp

@[simp] theorem breakTaken_frame (l : LinkId) (s : State) :
    (breakTaken l s).phase = s.phase ∧ (breakTaken l s).tickCount = s.tickCount ∧
    (breakTaken l s).straps = s.straps ∧ (breakTaken l s).settings = s.settings ∧
    (breakTaken l s).channels = s.channels ∧ (breakTaken l s).polls = s.polls ∧ (breakTaken l s).bus = s.bus ∧
    (breakTaken l s).triggers = s.triggers ∧ (breakTaken l s).slots = s.slots ∧
    (breakTaken l s).pending = s.pending := by
  unfold breakTaken; dsimp only; split <;> simp

@[simp] theorem deliveredOnly_frame (l : LinkId) (s : State) :
    (deliveredOnly l s).phase = s.phase ∧ (deliveredOnly l s).tickCount = s.tickCount ∧
    (deliveredOnly l s).straps = s.straps ∧ (deliveredOnly l s).settings = s.settings ∧
    (deliveredOnly l s).channels = s.channels ∧ (deliveredOnly l s).polls = s.polls ∧
    (deliveredOnly l s).bus = s.bus ∧ (deliveredOnly l s).triggers = s.triggers ∧
    (deliveredOnly l s).lease = s.lease ∧ (deliveredOnly l s).pending = s.pending := by
  unfold deliveredOnly; split <;> simp

@[simp] theorem beforeBreak_frame (l : LinkId) (order : BreakOrder) (s : State) :
    (beforeBreak l order s).phase = s.phase ∧ (beforeBreak l order s).tickCount = s.tickCount ∧
    (beforeBreak l order s).straps = s.straps ∧ (beforeBreak l order s).settings = s.settings ∧
    (beforeBreak l order s).channels = s.channels ∧ (beforeBreak l order s).polls = s.polls ∧
    (beforeBreak l order s).bus = s.bus ∧ (beforeBreak l order s).triggers = s.triggers ∧
    (beforeBreak l order s).lease = s.lease ∧ (beforeBreak l order s).pending = s.pending := by
  unfold beforeBreak; split <;> simp

@[simp] theorem breakEvent_frame (l : LinkId) (order : BreakOrder) (s : State) :
    (breakEvent l order s).phase = s.phase ∧ (breakEvent l order s).tickCount = s.tickCount ∧
    (breakEvent l order s).straps = s.straps ∧ (breakEvent l order s).settings = s.settings ∧
    (breakEvent l order s).channels = s.channels ∧ (breakEvent l order s).polls = s.polls ∧
    (breakEvent l order s).bus = s.bus ∧ (breakEvent l order s).triggers = s.triggers ∧
    (breakEvent l order s).pending = s.pending := by
  unfold breakEvent; (repeat' split) <;> simp

@[simp] theorem dueExpiries_frame (cs : List ChannelId) (s : State) :
    (cs.foldl (fun s c => dueExpiryEvent c s) s).phase = s.phase ∧
    (cs.foldl (fun s c => dueExpiryEvent c s) s).tickCount = s.tickCount ∧
    (cs.foldl (fun s c => dueExpiryEvent c s) s).straps = s.straps ∧
    (cs.foldl (fun s c => dueExpiryEvent c s) s).settings = s.settings ∧
    (cs.foldl (fun s c => dueExpiryEvent c s) s).channels = s.channels ∧
    (cs.foldl (fun s c => dueExpiryEvent c s) s).bus = s.bus ∧
    (cs.foldl (fun s c => dueExpiryEvent c s) s).views = s.views ∧
    (cs.foldl (fun s c => dueExpiryEvent c s) s).attention = s.attention ∧
    (cs.foldl (fun s c => dueExpiryEvent c s) s).triggers = s.triggers ∧
    (cs.foldl (fun s c => dueExpiryEvent c s) s).slots = s.slots ∧
    (cs.foldl (fun s c => dueExpiryEvent c s) s).rings = s.rings ∧
    (cs.foldl (fun s c => dueExpiryEvent c s) s).lease = s.lease ∧
    (cs.foldl (fun s c => dueExpiryEvent c s) s).links = s.links ∧
    (cs.foldl (fun s c => dueExpiryEvent c s) s).pending = s.pending := by
  refine ⟨?_, ?_, ?_, ?_, ?_, ?_, ?_, ?_, ?_, ?_, ?_, ?_, ?_, ?_⟩ <;> exact foldl_keeps _ _ (fun s x => by simp) _ s

@[simp] theorem confirms_frame (ts : List TriggerId) (s : State) :
    (ts.foldl (fun s t => confirmEvent t s) s).phase = s.phase ∧
    (ts.foldl (fun s t => confirmEvent t s) s).tickCount = s.tickCount ∧
    (ts.foldl (fun s t => confirmEvent t s) s).straps = s.straps ∧
    (ts.foldl (fun s t => confirmEvent t s) s).settings = s.settings ∧
    (ts.foldl (fun s t => confirmEvent t s) s).channels = s.channels ∧
    (ts.foldl (fun s t => confirmEvent t s) s).bus = s.bus ∧
    (ts.foldl (fun s t => confirmEvent t s) s).views = s.views ∧
    (ts.foldl (fun s t => confirmEvent t s) s).lease = s.lease ∧
    (ts.foldl (fun s t => confirmEvent t s) s).links = s.links ∧
    (ts.foldl (fun s t => confirmEvent t s) s).pending = s.pending := by
  refine ⟨?_, ?_, ?_, ?_, ?_, ?_, ?_, ?_, ?_, ?_⟩ <;> exact foldl_keeps _ _ (fun s x => by simp) _ s

@[simp] theorem pulseTicks_frame (vs : List LinkId) (s : State) :
    (vs.foldl (fun s v => pulseTickEvent v s) s).phase = s.phase ∧
    (vs.foldl (fun s v => pulseTickEvent v s) s).tickCount = s.tickCount ∧
    (vs.foldl (fun s v => pulseTickEvent v s) s).straps = s.straps ∧
    (vs.foldl (fun s v => pulseTickEvent v s) s).settings = s.settings ∧
    (vs.foldl (fun s v => pulseTickEvent v s) s).channels = s.channels ∧
    (vs.foldl (fun s v => pulseTickEvent v s) s).polls = s.polls ∧
    (vs.foldl (fun s v => pulseTickEvent v s) s).bus = s.bus ∧
    (vs.foldl (fun s v => pulseTickEvent v s) s).views = s.views ∧
    (vs.foldl (fun s v => pulseTickEvent v s) s).triggers = s.triggers ∧
    (vs.foldl (fun s v => pulseTickEvent v s) s).slots = s.slots ∧
    (vs.foldl (fun s v => pulseTickEvent v s) s).rings = s.rings ∧
    (vs.foldl (fun s v => pulseTickEvent v s) s).lease = s.lease ∧
    (vs.foldl (fun s v => pulseTickEvent v s) s).links = s.links ∧
    (vs.foldl (fun s v => pulseTickEvent v s) s).pending = s.pending := by
  refine ⟨?_, ?_, ?_, ?_, ?_, ?_, ?_, ?_, ?_, ?_, ?_, ?_, ?_, ?_⟩ <;> exact foldl_keeps _ _ (fun s x => by simp) _ s

@[simp] theorem settleTick_frame (s : State) :
    (settleTick s).phase = s.phase ∧ (settleTick s).tickCount = s.tickCount ∧ (settleTick s).straps = s.straps ∧
    (settleTick s).settings = s.settings ∧ (settleTick s).channels = s.channels ∧ (settleTick s).bus = s.bus ∧
    (settleTick s).links = s.links ∧ (settleTick s).pending = s.pending := by
  unfold settleTick; simp

@[simp] theorem tickEvent_frame (trg : BitVec 4) (s : State) :
    (tickEvent trg s).phase = s.phase ∧ (tickEvent trg s).straps = s.straps ∧
    (tickEvent trg s).settings = s.settings ∧ (tickEvent trg s).channels = s.channels ∧
    (tickEvent trg s).bus = s.bus ∧ (tickEvent trg s).links = s.links ∧ (tickEvent trg s).pending = s.pending := by
  unfold tickEvent advance; simp

/-- The state at a composition differs from the state before in what a delivery reduces. -/
theorem compositionState_frame {l : LinkId} {s s1 : State} (h : compositionState l s = some s1) :
    s1.phase = s.phase ∧ s1.tickCount = s.tickCount ∧ s1.straps = s.straps ∧ s1.settings = s.settings ∧
    s1.channels = s.channels ∧ s1.polls = s.polls ∧ s1.bus = s.bus ∧ s1.triggers = s.triggers ∧
    s1.lease = s.lease ∧ s1.pending = s.pending := by
  unfold compositionState at h
  (repeat' split at h) <;> simp_all <;> (subst h; simp)

/-- A named request changes the state as its execution does, or not at all. -/
theorem composeIf_cases (l : LinkId) (named : State → Request → Bool) (s : State) :
    composeIf l named s = s ∨
      ∃ s1 r rest, compositionState l s = some s1 ∧ s1.links[l].queue = r :: rest ∧ named s1 r = true ∧
        composeIf l named s = execute l r rest s1 := by
  unfold composeIf
  split
  · exact .inl rfl
  · split
    · exact .inl rfl
    · split
      · exact .inr ⟨_, _, _, by assumption, by assumption, by assumption, rfl⟩
      · exact .inl rfl

@[simp] theorem composeIf_frame (l : LinkId) (named : State → Request → Bool) (s : State) :
    (composeIf l named s).phase = s.phase ∧ (composeIf l named s).tickCount = s.tickCount ∧
    (composeIf l named s).straps = s.straps ∧ (composeIf l named s).pending = s.pending := by
  obtain h | ⟨s1, r, rest, h1, -, -, h⟩ := composeIf_cases l named s
  · simp [h]
  · have := compositionState_frame h1
    simp [h, this]

end Sys2Proof.Machine
end

