-- ==== Sys2Proof/Laws/Captures.lean ====
section
/-! SUPPORT. The capture memory and the captures in flight: one theorem for each operation on them, saying all that it
does. -/

namespace Sys2Proof.Machine

/-! ## Slots -/

theorem readSlot_writeSlot (sl : Vector (Option CaptureRecord) 128) (i n : Nat) (x : Option CaptureRecord) :
    readSlot (writeSlot sl i x) n = if i = n ∧ n < 128 then x else readSlot sl n := by
  unfold readSlot writeSlot
  by_cases hn : n < 128
  · simp only [hn, dif_pos, and_true]
    by_cases hi : i < 128
    · simp only [hi, dif_pos, Vector.getElem_set]
    · simp only [hi, dif_neg, not_false_eq_true]
      rw [if_neg (by omega)]
  · simp [hn]

theorem readSlot_clearSlots (sl : Vector (Option CaptureRecord) 128) (is : List Nat) (n : Nat) :
    readSlot (clearSlots sl is) n = if n ∈ is then none else readSlot sl n := by
  unfold clearSlots
  induction is generalizing sl with
  | nil => simp
  | cons i is ih =>
    rw [List.foldl_cons, ih, readSlot_writeSlot]
    by_cases h1 : n ∈ is
    · simp [h1]
    · by_cases h2 : i = n
      · subst h2
        by_cases h3 : i < 128
        · simp [h3]
        · simp [h1, h3, readSlot]
      · simp [h1, h2, Ne.symm h2]

/-! ## Captures in flight -/

/-- A capture has an unfilled entry exactly if it gives no finished record. -/
theorem finishedEntries_none (es : List Entry) : finishedEntries es = none ↔ ∃ e ∈ es, e.stage.waiting = true := by
  induction es with
  | nil => simp [finishedEntries]
  | cons e es ih =>
    unfold finishedEntries
    split
    · next st x y rs h1 h2 =>
      have : ¬ ∃ e ∈ es, e.stage.waiting = true := by rw [← ih, h2]; simp
      constructor
      · intro h; cases h
      · rintro ⟨e', he', hw⟩
        rcases List.mem_cons.1 he' with rfl | hm
        · rw [h1] at hw; cases hw
        · exact absurd ⟨e', hm, hw⟩ this
    · next h =>
      refine ⟨fun _ => ?_, fun _ => rfl⟩
      cases hst : e.stage with
      | awaitingGrant => exact ⟨e, by simp, by rw [hst]; rfl⟩
      | awaitingResult => exact ⟨e, by simp, by rw [hst]; rfl⟩
      | filled a b c =>
        cases hf : finishedEntries es with
        | none => obtain ⟨e', h1, h2⟩ := ih.1 hf; exact ⟨e', by simp [h1], h2⟩
        | some rs => exact absurd hf (h a b c rs hst)

theorem finishCapture_triggers (s : State) (t i : TriggerId) :
    (finishCapture s t).triggers[i] =
      if i = t then { s.triggers[i] with capture := stillInFlight s.triggers[i].capture } else s.triggers[i] := by
  unfold finishCapture completeCapture? finishedRecord stillInFlight
  by_cases hi : i = t
  · subst hi
    rw [if_pos rfl]
    cases hc : s.triggers[i].capture with
    | none => simp only; rw [← hc]
    | some cap =>
      simp only
      cases hf : finishedEntries cap.entries with
      | none =>
        rw [if_pos ((finishedEntries_none _).1 hf)]
        simp only [Option.map_none]
        rw [← hc]
      | some es =>
        have : ¬ ∃ e ∈ cap.entries, e.stage.waiting = true := by rw [← finishedEntries_none, hf]; simp
        rw [if_neg this]
        simp
  · rw [if_neg hi]
    split
    · rfl
    · simp only [appendRecord_frame, State.modTrigger_triggers]
      exact get_upd_ne hi

theorem finishCaptures_triggers (s : State) (i : TriggerId) :
    (finishCaptures s).triggers[i] =
      { s.triggers[i] with capture := stillInFlight s.triggers[i].capture } := by
  have key : ∀ (xs : List TriggerId) (s : State), xs.Nodup →
      (xs.foldl finishCapture s).triggers[i] =
        if i ∈ xs then { s.triggers[i] with capture := stillInFlight s.triggers[i].capture }
        else s.triggers[i] := by
    intro xs
    induction xs with
    | nil => intro s _; simp
    | cons x xs ih =>
      intro s hn
      rw [List.nodup_cons] at hn
      rw [List.foldl_cons, ih _ hn.2, finishCapture_triggers]
      by_cases hx : i = x
      · subst hx; simp [hn.1]
      · simp [hx]
  have := key allTriggers s (by decide)
  rw [if_pos (by simp)] at this
  exact this

theorem fillEntries_triggers (sel : EntryStage → Bool) (c : ChannelId) (st : EntryStatus) (s : State)
    (i : TriggerId) :
    (fillEntries sel c st s).triggers[i] =
      { s.triggers[i] with
        capture := s.triggers[i].capture.map fun cap =>
          { cap with
            entries := cap.entries.map
              (Entry.fill sel c (.filled st s.channels[c].absoluteAlong s.channels[c].absoluteAcross)) } } := by
  simp [fillEntries, mapEntries]

/-! ## The exchange in flight -/

theorem clockByte_keeps {x : Byte} {e : Exchange} {b : Byte} :
    (∀ e', clockByte x e b = .inFlight e' →
      e'.channel = e.channel ∧ e'.kind = e.kind ∧ e'.discard = e.discard) ∧
    ∀ e' o, clockByte x e b = .completed e' o →
      e'.channel = e.channel ∧ e'.kind = e.kind ∧ e'.discard = e.discard := by
  unfold clockByte
  constructor
  · intro e' h; (repeat' split at h) <;> cases h <;> exact ⟨rfl, rfl, rfl⟩
  · intro e' o h; (repeat' split at h) <;> cases h <;> exact ⟨rfl, rfl, rfl⟩

/-- Clocking bytes keeps the channel, the kind and the discard mark of the exchange. -/
theorem clockBytes_keeps {x : Byte} {e : Exchange} {bs : List Byte} :
    (∀ e', clockBytes x e bs = .inFlight e' →
      e'.channel = e.channel ∧ e'.kind = e.kind ∧ e'.discard = e.discard) ∧
    ∀ e' o, clockBytes x e bs = .completed e' o →
      e'.channel = e.channel ∧ e'.kind = e.kind ∧ e'.discard = e.discard := by
  induction bs generalizing e with
  | nil => exact ⟨fun e' h => (by cases h; exact ⟨rfl, rfl, rfl⟩), fun e' o h => (by cases h)⟩
  | cons b bs ih =>
    have hb := clockByte_keeps (x := x) (e := e) (b := b)
    unfold clockBytes
    split
    · next e1 h1 =>
      have h2 := hb.1 e1 h1
      have h3 := ih (e := e1)
      rw [h2.1, h2.2.1, h2.2.2] at h3
      exact h3
    · next e1 o1 h1 =>
      refine ⟨fun e' h => (by cases h), fun e' o h => ?_⟩
      cases h
      exact hb.2 _ _ h1

end Sys2Proof.Machine
end

