-- ==== Sys2Proof/Laws/Codes.lean ====
section
/-! SUPPORT. The header code is linear: what a receiver decides depends on the inverted bits alone. -/

namespace Sys2Proof.Machine

theorem positions_xor (ps : List (Nat × BitVec 5)) (d e : BitVec 24) (a b : BitVec 5) :
    ps.foldl (fun acc ip => if (d ^^^ e).getLsbD ip.1 then acc ^^^ ip.2 else acc) (a ^^^ b) =
      ps.foldl (fun acc ip => if d.getLsbD ip.1 then acc ^^^ ip.2 else acc) a ^^^
        ps.foldl (fun acc ip => if e.getLsbD ip.1 then acc ^^^ ip.2 else acc) b := by
  induction ps generalizing a b with
  | nil => rfl
  | cons p ps ih =>
    simp only [List.foldl_cons]
    rw [← ih]
    congr 1
    rw [BitVec.getLsbD_xor]
    cases d.getLsbD p.1 <;> cases e.getLsbD p.1 <;> simp
    · rw [BitVec.xor_assoc]
    · rw [BitVec.xor_assoc, BitVec.xor_comm b, BitVec.xor_assoc]
    · rw [BitVec.xor_assoc a, ← BitVec.xor_assoc p.2, BitVec.xor_comm p.2, BitVec.xor_assoc b, BitVec.xor_self,
        BitVec.xor_zero]

theorem checkBits_xor (d e : BitVec 24) : checkBits (d ^^^ e) = checkBits d ^^^ checkBits e := by
  have := positions_xor codePositions d e 0 0
  simpa [checkBits] using this

theorem parity_xor {w : Nat} (d e : BitVec w) (n : Nat) : parity (d ^^^ e) n = (parity d n ^^ parity e n) := by
  induction n with
  | zero => rfl
  | succ n ih =>
    simp only [parity, BitVec.getLsbD_xor, ih]
    cases d.getLsbD n <;> cases e.getLsbD n <;> cases parity d n <;> cases parity e n <;> rfl

/-- The parts of a check byte: check bits 0 to 4, and the parity that check bit 5 completes. -/
theorem checkByte_parts (d : BitVec 24) :
    (checkByte d).setWidth 5 = checkBits d ∧ (checkByte d).getLsbD 6 = false ∧ (checkByte d).getLsbD 7 = false ∧
      parity (checkByte d) 6 = parity d 24 := by
  have key : ∀ (c : BitVec 5) (b : Bool),
      ((BitVec.setWidth 8 c ||| (if b then 0x20 else 0) : Byte).setWidth 5 = c) ∧
      (BitVec.setWidth 8 c ||| (if b then 0x20 else 0) : Byte).getLsbD 6 = false ∧
      (BitVec.setWidth 8 c ||| (if b then 0x20 else 0) : Byte).getLsbD 7 = false ∧
      parity (BitVec.setWidth 8 c ||| (if b then 0x20 else 0) : Byte) 6 = (b ^^ parity c 5) := by decide
  obtain ⟨h1, h2, h3, h4⟩ := key (checkBits d) (parity d 24 ^^ parity (checkBits d) 5)
  refine ⟨h1, h2, h3, h4.trans ?_⟩
  cases parity d 24 <;> cases parity (checkBits d) 5 <;> rfl

/-- The decision on a header and check byte of which the bits of `ed` and `ec` are inverted. -/
theorem decodeHeader_inverted (d ed : BitVec 24) (ec : Byte) :
    decodeHeader (d ^^^ ed) (checkByte d ^^^ ec) =
      (let s := ec.setWidth 5 ^^^ checkBits ed
      let o := parity ed 24 ^^ parity ec 6
      if ec.getLsbD 6 || ec.getLsbD 7 then .uncorrectable
      else if s = 0 then (if o then .corrected (d ^^^ ed) else .intact)
      else if !o then .uncorrectable
      else if s = 1 ∨ s = 2 ∨ s = 4 ∨ s = 8 ∨ s = 16 then .corrected (d ^^^ ed)
      else
        match dataBitAt s with
        | some i => .corrected (d ^^^ ed ^^^ BitVec.twoPow 24 i)
        | none => .uncorrectable) := by
  obtain ⟨g1, g2, g3, g4⟩ := checkByte_parts d
  have hs : (checkByte d ^^^ ec).setWidth 5 ^^^ checkBits (d ^^^ ed) = ec.setWidth 5 ^^^ checkBits ed := by
    rw [checkBits_xor, BitVec.setWidth_xor, g1, BitVec.xor_comm (checkBits d) (ec.setWidth 5), BitVec.xor_assoc,
      ← BitVec.xor_assoc (checkBits d), BitVec.xor_self, BitVec.zero_xor]
  have ho : (parity (d ^^^ ed) 24 ^^ parity (checkByte d ^^^ ec) 6) = (parity ed 24 ^^ parity ec 6) := by
    rw [parity_xor, parity_xor, g4]
    cases parity d 24 <;> cases parity ed 24 <;> cases parity ec 6 <;> rfl
  unfold decodeHeader
  simp only [hs, ho, BitVec.getLsbD_xor, g2, g3, Bool.false_xor]
  all_goals rfl

/-- The parts of a header. -/
theorem headerBits_parts (x y z : Byte) :
    (headerBits x y z).extractLsb' 16 8 = x ∧ (headerBits x y z).extractLsb' 8 8 = y ∧
      (headerBits x y z).extractLsb' 0 8 = z ∧
      ((headerBits x y z).extractLsb' 0 16).toNat = 256 * y.toNat + z.toNat := by
  have app : ∀ {m n : Nat} (a : BitVec m) (b : BitVec n), (a ++ b).toNat = a.toNat * 2 ^ n + b.toNat := by
    intro m n a b
    rw [BitVec.toNat_append, ← Nat.shiftLeft_add_eq_or_of_lt b.isLt, Nat.shiftLeft_eq]
  have hN : (headerBits x y z).toNat = x.toNat * 65536 + y.toNat * 256 + z.toNat := by
    unfold headerBits; rw [app, app]; omega
  have hx := x.isLt
  have hy := y.isLt
  have hz := z.isLt
  refine ⟨?_, ?_, ?_, ?_⟩
  · apply BitVec.eq_of_toNat_eq; rw [BitVec.extractLsb'_toNat, hN, Nat.shiftRight_eq_div_pow]; omega
  · apply BitVec.eq_of_toNat_eq; rw [BitVec.extractLsb'_toNat, hN, Nat.shiftRight_eq_div_pow]; omega
  · apply BitVec.eq_of_toNat_eq; rw [BitVec.extractLsb'_toNat, hN, Nat.shiftRight_eq_div_pow]; omega
  · rw [BitVec.extractLsb'_toNat, hN, Nat.shiftRight_eq_div_pow]; omega

end Sys2Proof.Machine
end

