-- ==== Sys2Proof/Laws/Effect.lean ====
section
/-! SUPPORT. The state that each command leaves, as a function, and the one principle by which a property of the state
is shown to be kept by every step. -/

namespace Sys2Proof.Machine

/-- An event of the part as a change of state. -/
def whenRunning (f : State → State) (s : State) : State := if s.phase = .running then f s else s

/-- An event of link `l` as a change of state. -/
def whenOperating (l : LinkId) (f : State → State) (s : State) : State := if operating s l = true then f s else s

/-- The state that a command leaves. -/
def effect : Instr → State → State
  | .reset, s => { State.reset with pending := s.pending }
  | .resetRelease, s => releaseEvent s
  | .strapSampling atn ld, s => strapEvent atn ld s
  | .tick trg, s => whenRunning (tickEvent trg) s
  | .dueCountdownExpiry c, s => whenRunning (dueExpiryEvent c) s
  | .leaseExpiry, s => whenRunning leaseExpiryEvent s
  | .pulseTimerTick v, s => whenRunning (pulseTickEvent v) s
  | .triggerEdgeQualified t, s => whenRunning (confirmEvent t) s
  | .grant, s => whenRunning grantEvent s
  | .exchangeCompletion sdi, s => whenRunning (exchangeEvent sdi) s
  | .frameHeaderReceived l check, s => whenOperating l (fourthByte l check) s
  | .longFrameReceived l crcLow, s => whenOperating l (lastCrcByte l crcLow) s
  | .frameTimeout l, s => whenOperating l (fun s => s.modLink l Link.timeout) s
  | .framing l, s => whenOperating l (framingEvent l) s
  | .discardEnd l, s => whenOperating l (fun s => s.modLink l Link.endDiscard) s
  | .contention l, s => whenOperating l (contentionEvent l) s
  | .lineBreak b, s => whenOperating b.link (breakEvent b.link b.order) s
  | .turn l p0 p1, s => whenOperating l (takeBytes l (shortFrame turnKind p0 p1)) s
  | .noop l p0 p1, s => whenOperating l (takeBytes l (shortFrame noopKind p0 p1)) s
  | .fill l payload, s => whenOperating l (takeBytes l (longFrame fillKind payload)) s
  | .guardEnd l, s => whenOperating l (guardEndEvent l) s
  | .replyDelivery l, s => whenOperating l (deliveryEvent l) s
  | .motionRead l mask options, s =>
    whenOperating l (composeIf l fun _ r => decide (r = .motionRead mask options)) s
  | .captureRead l n, s => whenOperating l (composeIf l fun _ r => decide (r = .captureRead n)) s
  | .linkStatus l, s => whenOperating l (composeIf l fun _ r => decide (r = .linkStatus)) s
  | .viewReset l, s => whenOperating l (composeIf l fun _ r => decide (r = .viewReset)) s
  | .leaseAcquire l, s => whenOperating l (composeIf l fun _ r => decide (r = .leaseAcquire)) s
  | .leaseRelease l, s => whenOperating l (composeIf l fun _ r => decide (r = .leaseRelease)) s
  | .settingRead l payload, s => whenOperating l (composeIf l fun _ r => decide (r = .settingRead payload)) s
  | .settingWrite l payload, s => whenOperating l (composeIf l fun _ r => decide (r = .settingWrite payload)) s
  | .preset l payload, s => whenOperating l (composeIf l fun _ r => decide (r = .preset payload)) s
  | .channelEnable l c, s => whenOperating l (composeIf l (acceptedWrite l (enablesChannel c))) s
  | .channelDisable l c, s => whenOperating l (composeIf l (acceptedWrite l (disablesChannel c))) s
  | .forcedTierSet l c tier, s => whenOperating l (composeIf l (acceptedWrite l (setsForcedTier c tier))) s
  | .forcedTierRelease l c, s => whenOperating l (composeIf l (acceptedWrite l (releasesForcedTier c))) s
  | .triggerEnable l t, s => whenOperating l (composeIf l (acceptedWrite l (enablesTrigger t))) s
  | .triggerDisable l t, s => whenOperating l (composeIf l (acceptedWrite l (disablesTrigger t))) s
  | .subscriptionChange l mask, s => whenOperating l (composeIf l (acceptedWrite l (changesMask l mask))) s
  | .ringPlacement l base length, s => whenOperating l (composeIf l (acceptedWrite l (placesRing base length))) s
  | .attentionSettingsWrite l mode polarity sources, s =>
    whenOperating l (composeIf l (acceptedWrite l (writesAttention mode polarity sources))) s
  | .receivedByte l line, s => whenOperating l (takeCharacter l line) s
  | .returnToMark l, s => whenOperating l (fun s => s.modLink l Link.markReturned) s

/-- Every command answers the state that `effect` gives. -/
theorem exec_eq_effect (i : Instr) (s : State) : exec i s = .next (effect i s) := by
  cases i <;> rfl

theorem step_eq_effect (s : State) :
    step s = .next (match s.pending with
      | [] => s
      | i :: rest => effect i { s with pending := rest }) := by
  unfold step
  split <;> simp_all [exec_eq_effect]

/-- The changes of state of which the turn of a link is made, each from a state that has the property. `mid l s` says
what holds between the delivery of one frame on link `l` and the composition of the next; a property that every change
keeps is its own `mid`. -/
structure TurnKeeps (p : State → Prop) (mid : LinkId → State → Prop) : Prop where
  guard : ∀ l s, operating s l = true → s.links[l].tx = .guard → p s → mid l s
  deliver : ∀ l f s, operating s l = true → s.links[l].tx = .sending f → p s → mid l (deliverFrame l f.kind s)
  execute : ∀ l r rest s, operating s l = true → s.links[l].queue = r :: rest → mid l s → p (execute l r rest s)
  closing : ∀ l s, operating s l = true → mid l s → p (composeClosing l s)
  turn : ∀ l s, operating s l = true → mid l s → p (composeTurn l s)
  endTurn : ∀ l s, operating s l = true → mid l s → p (endTurn l s)

theorem operating_congr {s t : State} (l : LinkId) (hp : t.phase = s.phase) (hs : t.straps = s.straps) :
    operating t l = operating s l := by
  unfold operating linkEnabled; rw [hp, hs]

theorem operating_deliverFrame (l : LinkId) (kind : ReplyKind) (s : State) :
    operating (deliverFrame l kind s) l = operating s l :=
  operating_congr l (by simp) (by simp)

theorem TurnKeeps.composeNext {p : State → Prop} {mid : LinkId → State → Prop} (h : TurnKeeps p mid) {l : LinkId}
    {s : State} (ho : operating s l = true) (hp : mid l s) : p (composeNext l s) := by
  unfold Machine.composeNext
  split
  · exact h.execute _ _ _ _ ho (by assumption) hp
  · exact h.closing _ _ ho hp

theorem TurnKeeps.guardEnd {p : State → Prop} {mid : LinkId → State → Prop} (h : TurnKeeps p mid) {l : LinkId}
    {s : State} (ho : operating s l = true) (hp : p s) : p (guardEndEvent l s) := by
  unfold guardEndEvent
  split
  · next htx => exact h.composeNext ho (h.guard l s ho htx hp)
  · exact hp
  · exact hp

theorem TurnKeeps.delivery {p : State → Prop} {mid : LinkId → State → Prop} (h : TurnKeeps p mid) {l : LinkId}
    {s : State} (ho : operating s l = true) (hp : p s) : p (deliveryEvent l s) := by
  unfold deliveryEvent
  split
  · next f htx =>
    have h1 := h.deliver l f s ho htx hp
    have h2 : operating (deliverFrame l f.kind s) l = true := by rw [operating_deliverFrame, ho]
    unfold afterDelivery
    split <;> first | exact h.endTurn _ _ h2 h1 | exact h.turn _ _ h2 h1 | exact h.composeNext h2 h1
  · exact hp
  · exact hp

theorem TurnKeeps.composition {p : State → Prop} {mid : LinkId → State → Prop} (h : TurnKeeps p mid) {l : LinkId}
    {s s1 : State} (ho : operating s l = true) (hp : p s) (hc : compositionState l s = some s1) : mid l s1 := by
  unfold compositionState at hc
  split at hc
  · cases hc
  · next htx => cases hc; exact h.guard l s ho htx hp
  · next f htx =>
    have h1 := h.deliver l f s ho htx hp
    split at hc <;> cases hc <;> simp_all only

theorem TurnKeeps.composeIf {p : State → Prop} {mid : LinkId → State → Prop} (h : TurnKeeps p mid) {l : LinkId}
    {named : State → Request → Bool} {s : State} (ho : operating s l = true) (hp : p s) :
    p (composeIf l named s) := by
  obtain hc | ⟨s1, r, rest, h1, hq, -, hc⟩ := composeIf_cases l named s
  · rw [hc]; exact hp
  · rw [hc]
    have hf := compositionState_frame h1
    exact h.execute _ _ _ _ (by rw [operating_congr l hf.1 hf.2.2.1, ho]) hq (h.composition ho hp h1)

/-- The changes of state of which every command is made, each from a state that has the property to one that has
it. -/
structure CommandsKeep (p : State → Prop) (mid : LinkId → State → Prop) : Prop where
  turns : TurnKeeps p mid
  pending : ∀ s q, p s → p { s with pending := q }
  reset : ∀ q, p { State.reset with pending := q }
  release : ∀ s, s.phase = .inReset → p s → p { s with phase := .released }
  straps : ∀ st ld s, s.phase = .released → p s → p (sampleStraps st ld { s with tickCount := s.tickCount + 1 })
  tick : ∀ trg s, s.phase = .running → p s → p (tickEvent trg s)
  due : ∀ c s, s.phase = .running → p s → p (dueExpiryEvent c s)
  lease : ∀ s, s.phase = .running → p s → p (leaseExpiryEvent s)
  pulse : ∀ v s, s.phase = .running → p s → p (pulseTickEvent v s)
  confirm : ∀ t s, s.phase = .running → p s → p (confirmEvent t s)
  grant : ∀ s, s.phase = .running → p s → p (grantEvent s)
  exchange : ∀ sdi s, s.phase = .running → p s → p (exchangeEvent sdi s)
  character : ∀ l line s, operating s l = true → p s → p (takeCharacter l line s)
  fourthByte : ∀ l b s, operating s l = true → p s → p (fourthByte l b s)
  lastCrcByte : ∀ l b s, operating s l = true → p s → p (lastCrcByte l b s)
  timeout : ∀ l s, operating s l = true → p s → p (s.modLink l Link.timeout)
  framing : ∀ l s, operating s l = true → p s → p (framingEvent l s)
  endDiscard : ∀ l s, operating s l = true → p s → p (s.modLink l Link.endDiscard)
  contention : ∀ l s, operating s l = true → p s → p (contentionEvent l s)
  lineBreak : ∀ l order s, operating s l = true → p s → p (breakEvent l order s)
  returnToMark : ∀ l s, operating s l = true → p s → p (s.modLink l Link.markReturned)

theorem takeBytes_keeps {p : State → Prop} {l : LinkId}
    (h : ∀ line s, operating s l = true → p s → p (takeCharacter l line s)) (bytes : List Byte) (s : State)
    (ho : operating s l = true) (hp : p s) : p (takeBytes l bytes s) := by
  unfold takeBytes
  induction bytes generalizing s with
  | nil => exact hp
  | cons b bs ih =>
    exact ih _ (by rw [operating_congr (s := s) l (by simp) (by simp), ho]) (h (Machine.character b) s ho hp)

theorem whenRunning_keeps {p : State → Prop} {f : State → State} {s : State}
    (h : s.phase = .running → p s → p (f s)) (hp : p s) : p (whenRunning f s) := by
  unfold whenRunning
  split
  · exact h (by assumption) hp
  · exact hp

theorem whenOperating_keeps {p : State → Prop} {l : LinkId} {f : State → State} {s : State}
    (h : operating s l = true → p s → p (f s)) (hp : p s) : p (whenOperating l f s) := by
  unfold whenOperating
  split
  · exact h (by assumption) hp
  · exact hp

theorem CommandsKeep.effect {p : State → Prop} {mid : LinkId → State → Prop} (h : CommandsKeep p mid)
    (i : Instr) (s : State) (hp : p s) :
    p (effect i s) := by
  cases i with
  | reset => exact h.reset _
  | resetRelease =>
    show p (releaseEvent s)
    unfold releaseEvent
    split
    · exact h.release _ (by assumption) hp
    · exact hp
    · exact hp
  | strapSampling atn ld =>
    show p (strapEvent atn ld s)
    unfold strapEvent
    split
    · exact h.straps _ _ _ (by assumption) hp
    · exact hp
    · exact hp
  | tick trg => exact whenRunning_keeps (h.tick trg s) hp
  | dueCountdownExpiry c => exact whenRunning_keeps (h.due c s) hp
  | leaseExpiry => exact whenRunning_keeps (h.lease s) hp
  | pulseTimerTick v => exact whenRunning_keeps (h.pulse v s) hp
  | triggerEdgeQualified t => exact whenRunning_keeps (h.confirm t s) hp
  | grant => exact whenRunning_keeps (h.grant s) hp
  | exchangeCompletion sdi => exact whenRunning_keeps (h.exchange sdi s) hp
  | frameHeaderReceived l b => exact whenOperating_keeps (h.fourthByte l b s) hp
  | longFrameReceived l b => exact whenOperating_keeps (h.lastCrcByte l b s) hp
  | frameTimeout l => exact whenOperating_keeps (f := fun s => s.modLink l Link.timeout) (h.timeout l s) hp
  | framing l => exact whenOperating_keeps (h.framing l s) hp
  | discardEnd l => exact whenOperating_keeps (f := fun s => s.modLink l Link.endDiscard) (h.endDiscard l s) hp
  | contention l => exact whenOperating_keeps (h.contention l s) hp
  | lineBreak b => exact whenOperating_keeps (h.lineBreak b.link b.order s) hp
  | turn l p0 p1 => exact whenOperating_keeps (takeBytes_keeps (h.character l) _ s) hp
  | noop l p0 p1 => exact whenOperating_keeps (takeBytes_keeps (h.character l) _ s) hp
  | fill l payload => exact whenOperating_keeps (takeBytes_keeps (h.character l) _ s) hp
  | guardEnd l => exact whenOperating_keeps (fun ho => h.turns.guardEnd ho) hp
  | replyDelivery l => exact whenOperating_keeps (fun ho => h.turns.delivery ho) hp
  | receivedByte l line => exact whenOperating_keeps (h.character l line s) hp
  | returnToMark l => exact whenOperating_keeps (f := fun s => s.modLink l Link.markReturned) (h.returnToMark l s) hp
  | _ => exact whenOperating_keeps (fun ho => h.turns.composeIf ho) hp

/-- A property that every one of those changes keeps is kept by every step. -/
theorem CommandsKeep.step {p : State → Prop} {mid : LinkId → State → Prop} (h : CommandsKeep p mid)
    {s t : State} (hp : p s)
    (hs : step s = .next t) : p t := by
  rw [step_eq_effect] at hs
  injection hs with hs
  subst hs
  split
  · exact hp
  · exact h.effect _ _ (h.pending _ _ hp)

end Sys2Proof.Machine
end

