-- ==== Sys2Proof/Laws/Turns.lean ====
section
/-! SUPPORT. Attention, the lease and the turn of a link: what a composition, a reply and an abort do. -/

namespace Sys2Proof.Machine

/-! ## Attention and the lease -/

theorem attendAll_attention (s : State) (v : LinkId) : (attendAll s).attention[v] = attendView s v := by
  simp [attendAll]

/-- Attention that stands as its inputs call for stays as it is. -/
theorem attendAll_current {s : State} (hr : s.phase = .running) (h : attentionCurrent s) : attendAll s = s := by
  refine State.eq_of_fields rfl rfl rfl rfl rfl rfl rfl rfl ?_ rfl rfl rfl rfl rfl rfl
  apply vector_ext
  intro v
  rw [attendAll_attention]
  have hv := h hr v
  have ht : timerAfter s.views[v].settings.attentionMode s.attention[v] (attentionCondition s v) =
      s.attention[v].timer := by
    cases hm : s.views[v].settings.attentionMode with
    | off => exact (hv.2.2 (by rw [hm]; simp)).symm
    | level => exact (hv.2.2 (by rw [hm]; simp)).symm
    | pulse =>
      unfold timerAfter
      simp only
      rw [← hv.1]
      cases s.attention[v].condition <;> rfl
  unfold attendView
  dsimp only
  rw [ht, ← hv.1, ← hv.2.1]

theorem renewLease_eq (l : LinkId) (s : State) : renewLease l s = { s with lease := (renewLease l s).lease } := by
  unfold renewLease; split <;> rfl

theorem renewLease_congr {l : LinkId} {s t : State} (h1 : s.lease = t.lease) (h2 : s.settings = t.settings) :
    (renewLease l s).lease = (renewLease l t).lease := by
  unfold renewLease leaseReload; rw [h1, h2]; split <;> simp [h1]

/-! ## Slots behind the head of a ring -/

theorem mem_headSlots {s : State} {v : LinkId} {k n : Nat} :
    n ∈ headSlots s v k ↔ ∃ j < k, n = slotBehindHead s v j := by
  unfold headSlots slotBehindHead slotOf ringPosition ringSlots Config.slotsPerUnit
  rw [List.mem_map]
  constructor
  · rintro ⟨j, hj, rfl⟩; exact ⟨j, by simpa using hj, rfl⟩
  · rintro ⟨j, hj, rfl⟩; exact ⟨j, by simpa using hj, rfl⟩

/-! ## Commands of a link -/

/-- A command of a working link answers what its event leaves. -/
theorem exec_link {i : Instr} {l : LinkId} {s : State} {f : State → State} (h : effect i s = whenOperating l f s)
    (ho : operating s l = true) : exec i s = .next (f s) := by
  rw [exec_eq_effect, h]; simp only [whenOperating, if_pos ho]

theorem composeIf_at {l : LinkId} {r : Request} {rest : List Request} {s s1 : State}
    (h : atComposition l r rest s s1) {named : State → Request → Bool} (hn : named s1 r = true) :
    composeIf l named s = execute l r rest s1 := by
  obtain ⟨-, h1, h2⟩ := h
  unfold composeIf
  rw [h1]; simp only
  rw [h2]; simp only
  rw [if_pos hn]

theorem send_links (l : LinkId) (f : TxFrame) (s : State) :
    (send l f s).links = upd s.links l fun k => { k with tx := .sending f } := by
  unfold send; simp

/-- What each request leaves of its link: the reply in transmission, and perhaps another status record. -/
theorem runRequest_links (l : LinkId) (r : Request) (s : State) : ∃ f st,
    (runRequest l r s).links = upd s.links l fun k => { k with tx := .sending f, status := st } := by
  have key : ∀ (t : State) (f : TxFrame), t.links = s.links → ∃ f' st,
      (send l f t).links = upd s.links l fun k => { k with tx := .sending f', status := st } := by
    intro t f h
    refine ⟨f, s.links[l].status, ?_⟩
    rw [send_links, h]
    exact upd_congr _ _ _ _ rfl
  have key' : ∀ (t : State) (r : Request) (c : ResultCode), t.links = s.links → ∃ f' st,
      (sendResult l r c t).links = upd s.links l fun k => { k with tx := .sending f', status := st } :=
    fun t r c h => key t _ h
  unfold runRequest
  split
  · unfold runMotionRead; split
    · exact key _ _ rfl
    · exact key' _ _ _ rfl
  · unfold runCaptureRead; split
    · exact key' _ _ _ rfl
    · exact key _ _ rfl
  · refine ⟨longReply .linkStatusData (statusPayload s.lease.holder (statusNow s l)), some (statusNow s l), ?_⟩
    unfold runLinkStatus
    rw [send_links, State.modLink_links, upd_upd]
  · unfold runViewReset; exact key' _ _ _ (by simp)
  · unfold runLeaseAcquire; (repeat' split) <;> exact key' _ _ _ rfl
  · unfold runLeaseRelease; split <;> exact key' _ _ _ rfl
  · unfold runSettingRead; split
    · exact key' _ _ _ rfl
    · exact key _ _ rfl
  · unfold runSettingWrite; split
    · exact key' _ _ _ rfl
    · exact key' _ _ _ (by simp)
  · unfold runPreset; split
    · exact key' _ _ _ rfl
    · exact key' _ _ _ rfl

/-! ## An abort -/

/-- What an abort leaves: the record of the report aborted, or nothing. -/
theorem abortTransmission_eq (l : LinkId) (s : State) :
    ∃ (rp : Option (List ReportLine)) (again : Bool) (rr : Option CaptureReported) (st : Option StatusReported),
      abortTransmission l s =
        { s with
          views := upd s.views l fun v => { v with report := rp, lostAgain := again }
          rings := upd s.rings l fun g => { g with report := rr }
          links := upd s.links l fun k => { k with status := st } } ∧
      (isSending l .motionReport s → rp = none) ∧ (isSending l .captureReport s → rr = none) ∧
      (isSending l .linkStatusData s → st = none ∧ again = false) := by
  have iv : upd s.views l (fun v => { v with report := s.views[l].report, lostAgain := s.views[l].lostAgain }) =
      s.views := upd_eq_self _ _ _ rfl
  have ir : upd s.rings l (fun g => { g with report := s.rings[l].report }) = s.rings := upd_eq_self _ _ _ rfl
  have il : upd s.links l (fun k => { k with status := s.links[l].status }) = s.links := upd_eq_self _ _ _ rfl
  have other : ∀ f k', s.links[l].tx = .sending f → f.kind ≠ k' → ¬ isSending l k' s := by
    rintro f k' h hn ⟨-, f', h', hk⟩
    rw [h] at h'; injection h' with h'
    exact hn (h' ▸ hk)
  have quiet : (∀ k', ¬ isSending l k' s) → abortTransmission l s = s →
      ∃ (rp : Option (List ReportLine)) (again : Bool) (rr : Option CaptureReported) (st : Option StatusReported),
        abortTransmission l s =
          { s with
            views := upd s.views l fun v => { v with report := rp, lostAgain := again }
            rings := upd s.rings l fun g => { g with report := rr }
            links := upd s.links l fun k => { k with status := st } } ∧
        (isSending l .motionReport s → rp = none) ∧ (isSending l .captureReport s → rr = none) ∧
        (isSending l .linkStatusData s → st = none ∧ again = false) := fun hk he =>
    ⟨s.views[l].report, s.views[l].lostAgain, s.rings[l].report, s.links[l].status, by rw [he, iv, ir, il],
      fun h => absurd h (hk _), fun h => absurd h (hk _), fun h => absurd h (hk _)⟩
  cases htx : s.links[l].tx with
  | idle =>
    refine quiet ?_ (by unfold abortTransmission; rw [htx])
    rintro k ⟨-, f, h, -⟩; rw [htx] at h; cases h
  | guard =>
    refine quiet ?_ (by unfold abortTransmission; rw [htx])
    rintro k ⟨-, f, h, -⟩; rw [htx] at h; cases h
  | sending f =>
    obtain ⟨k, b, lf⟩ := f
    have he : abortTransmission l s = abortFrame l k s := by unfold abortTransmission; rw [htx]
    have same : k ≠ .motionReport → k ≠ .captureReport → k ≠ .linkStatusData → abortFrame l k s = s →
        abortTransmission l s =
          { s with
            views := upd s.views l fun v => { v with report := s.views[l].report, lostAgain := s.views[l].lostAgain }
            rings := upd s.rings l fun g => { g with report := s.rings[l].report }
            links := upd s.links l fun k => { k with status := s.links[l].status } } ∧
        (isSending l .motionReport s → s.views[l].report = none) ∧
        (isSending l .captureReport s → s.rings[l].report = none) ∧
        (isSending l .linkStatusData s → s.links[l].status = none ∧ s.views[l].lostAgain = false) :=
      fun h1 h2 h3 h => ⟨by rw [he, h, iv, ir, il], fun h => absurd h (other _ _ htx h1),
        fun h => absurd h (other _ _ htx h2), fun h => absurd h (other _ _ htx h3)⟩
    cases k with
    | turn => exact ⟨_, _, _, _, same (by simp) (by simp) (by simp) rfl⟩
    | result => exact ⟨_, _, _, _, same (by simp) (by simp) (by simp) rfl⟩
    | errorReport => exact ⟨_, _, _, _, same (by simp) (by simp) (by simp) rfl⟩
    | settingData => exact ⟨_, _, _, _, same (by simp) (by simp) (by simp) rfl⟩
    | motionReport =>
      refine ⟨none, s.views[l].lostAgain, s.rings[l].report, s.links[l].status, ?_, fun _ => rfl,
        fun h => absurd h (other _ _ htx (by simp)), fun h => absurd h (other _ _ htx (by simp))⟩
      rw [he, ir, il]
      unfold abortFrame abortMotion State.modView
      simp only
      congr 1
    | captureReport =>
      refine ⟨s.views[l].report, s.views[l].lostAgain, none, s.links[l].status, ?_,
        fun h => absurd h (other _ _ htx (by simp)), fun _ => rfl, fun h => absurd h (other _ _ htx (by simp))⟩
      rw [he, iv, il]; rfl
    | linkStatusData =>
      refine ⟨s.views[l].report, false, s.rings[l].report, none, ?_,
        fun h => absurd h (other _ _ htx (by simp)), fun h => absurd h (other _ _ htx (by simp)),
        fun _ => ⟨rfl, rfl⟩⟩
      rw [he, ir]
      unfold abortFrame abortStatus State.modView State.modLink
      simp only
      congr 1

/-! ## A break and a delivery that fall together -/

/-- The break that is taken, where this stretch of space has not given one yet. -/
theorem breakEvent_taken {l : LinkId} {order : BreakOrder} {s : State} (h : s.links[l].receiver ≠ .awaitMark true) :
    breakEvent l order s = breakTaken l (beforeBreak l order s) := by
  unfold breakEvent
  split
  · next hr => exact absurd hr h
  all_goals rfl

theorem deliveredOnly_sending {l : LinkId} {f : TxFrame} {s : State} (h : s.links[l].tx = .sending f) :
    deliveredOnly l s = (deliverFrame l f.kind s).modLink l fun k => { k with tx := .idle } := by
  unfold deliveredOnly; rw [h]

/-- R148: where no frame is being sent there is nothing to deliver. -/
theorem deliveredOnly_quiet {l : LinkId} {s : State} (h : ∀ f, s.links[l].tx ≠ .sending f) : deliveredOnly l s = s := by
  unfold deliveredOnly
  split
  · next f hf => exact absurd hf (h f)
  · rfl
  · rfl

/-- R148: a break that is taken just after the delivery finds no frame in transmission. -/
theorem deliveredOnly_tx (l : LinkId) (s : State) (f : TxFrame) : (deliveredOnly l s).links[l].tx ≠ .sending f := by
  unfold deliveredOnly
  split
  · rw [State.modLink_links, get_upd_eq]; exact Transmitter.noConfusion
  · next h => rw [h]; exact Transmitter.noConfusion
  · next h => rw [h]; exact Transmitter.noConfusion

/-- With no frame in transmission there is nothing to abort. -/
theorem abortTransmission_quiet {l : LinkId} {s : State} (h : ∀ f, s.links[l].tx ≠ .sending f) :
    abortTransmission l s = s := by
  unfold abortTransmission
  split
  · next f hf => exact absurd hf (h f)
  · rfl
  · rfl

end Sys2Proof.Machine
end

