-- ==== Sys2Proof/Laws/HandOver.lean ====
section
/-! SUPPORT. What handing finished records over does to the rings and slots of the capture memory (R102, R107, R112). -/

namespace Sys2Proof.Machine

/-! ## Slots of the rings -/

/-- R107: the slots behind a head lie within their ring, and ring slots lie within the memory. -/
theorem slotBehindHead_range {s : State} {v : LinkId} (k : Nat) (h : 0 < s.views[v].settings.ringLength) :
    8 * s.views[v].settings.ringBase ≤ slotBehindHead s v k ∧
      slotBehindHead s v k < 8 * (s.views[v].settings.ringBase + s.views[v].settings.ringLength) := by
  unfold slotBehindHead
  have := Nat.mod_lt (s.rings[v].head + k) (by omega : 0 < 8 * s.views[v].settings.ringLength)
  omega

theorem placement_bound {s : State} (h : ringsDisjoint s) (v : LinkId) :
    s.views[v].settings.ringBase + s.views[v].settings.ringLength ≤ 16 := by
  have := h.1 v
  unfold placementInRange Config.units at this
  simp only [Bool.and_eq_true, decide_eq_true_eq] at this
  omega

theorem slotBehindHead_lt {s : State} (hd : ringsDisjoint s) {v : LinkId} (k : Nat)
    (h : 0 < s.views[v].settings.ringLength) : slotBehindHead s v k < 128 := by
  have := (slotBehindHead_range (s := s) (v := v) k h).2
  have := placement_bound hd v
  omega

/-- R107, R108: two places behind heads share a slot only if they are one place of one ring. -/
theorem slotBehindHead_inj {s : State} (hd : ringsDisjoint s) {v u : LinkId} {j k : Nat}
    (hj : j < 8 * s.views[v].settings.ringLength) (hk : k < 8 * s.views[u].settings.ringLength)
    (h : slotBehindHead s v j = slotBehindHead s u k) : v = u ∧ j = k := by
  have hv : 0 < s.views[v].settings.ringLength := by omega
  have hu : 0 < s.views[u].settings.ringLength := by omega
  have r1 := slotBehindHead_range (s := s) (v := v) j hv
  have r2 := slotBehindHead_range (s := s) (v := u) k hu
  by_cases e : v = u
  · subst e
    refine ⟨rfl, ?_⟩
    unfold slotBehindHead at h
    have h' : (s.rings[v].head + j) % (8 * s.views[v].settings.ringLength) =
        (s.rings[v].head + k) % (8 * s.views[v].settings.ringLength) := by omega
    have h2 : j % (8 * s.views[v].settings.ringLength) = k % (8 * s.views[v].settings.ringLength) :=
      Nat.ModEq.add_left_cancel' s.rings[v].head h'
    rwa [Nat.mod_eq_of_lt hj, Nat.mod_eq_of_lt hk] at h2
  · exfalso
    have hs := hd.2 v u e
    unfold placementsShare at hs
    simp only [Bool.and_eq_false_iff, decide_eq_false_iff_not] at hs
    omega

/-! ## One record -/

/-- What one view does with a record handed over: whether it keeps it. -/
def keeps (s : State) (v : LinkId) (r : CaptureRecord) : Prop :=
  s.views[v].settings.triggerSelection.getLsbD r.trigger.val = true ∧
    s.rings[v].count < 8 * s.views[v].settings.ringLength

theorem appendTo_views (r : CaptureRecord) (s : State) (v : LinkId) : (appendTo r s v).views = s.views := by simp

/-- R112: the ring of a view at a record handed over. -/
def ringAfter (s : State) (v : LinkId) (r : CaptureRecord) : Ring :=
  if s.views[v].settings.triggerSelection.getLsbD r.trigger.val then
    (if s.rings[v].count < 8 * s.views[v].settings.ringLength then
      { s.rings[v] with count := s.rings[v].count + 1 }
    else { s.rings[v] with dropped := satInc 255 s.rings[v].dropped })
  else s.rings[v]

theorem appendTo_rings (r : CaptureRecord) (s : State) (v u : LinkId) :
    (appendTo r s v).rings[u] = if u = v then ringAfter s v r else s.rings[u] := by
  unfold appendTo ringAfter ringSlots Config.slotsPerUnit Config.droppedMax
  dsimp only
  by_cases hu : u = v
  · subst hu
    rw [if_pos rfl]
    split
    · split
      · simp
      · simp
    · rfl
  · rw [if_neg hu]
    split
    · split
      · exact get_put_ne hu
      · exact get_upd_ne hu
    · rfl

theorem appendTo_slots (r : CaptureRecord) {s : State} (hd : ringsDisjoint s) (v : LinkId) (n : Nat) :
    (keeps s v r ∧ n = slotBehindHead s v s.rings[v].count → readSlot (appendTo r s v).slots n = some r) ∧
    (¬(keeps s v r ∧ n = slotBehindHead s v s.rings[v].count) →
      readSlot (appendTo r s v).slots n = readSlot s.slots n) := by
  have he : slotOf s.views[v].settings.ringBase (ringPosition s.rings[v].head s.rings[v].count
      (ringSlots s.views[v].settings.ringLength)) = slotBehindHead s v s.rings[v].count := rfl
  unfold appendTo
  dsimp only
  by_cases h1 : s.views[v].settings.triggerSelection.getLsbD r.trigger.val = true
  · rw [if_pos h1]
    by_cases h2 : s.rings[v].count < 8 * s.views[v].settings.ringLength
    · have h2' : s.rings[v].count < ringSlots s.views[v].settings.ringLength := h2
      rw [if_pos h2']
      simp only [he]
      have hlt := slotBehindHead_lt hd (v := v) s.rings[v].count (by omega)
      constructor
      · rintro ⟨-, rfl⟩
        rw [readSlot_writeSlot, if_pos ⟨rfl, hlt⟩]
      · intro hn
        rw [readSlot_writeSlot, if_neg]
        rintro ⟨rfl, -⟩
        exact hn ⟨⟨h1, h2⟩, rfl⟩
    · have h2' : ¬ s.rings[v].count < ringSlots s.views[v].settings.ringLength := h2
      rw [if_neg h2']
      exact ⟨fun h => absurd h.1.2 h2, fun _ => rfl⟩
  · rw [if_neg h1]
    exact ⟨fun h => absurd h.1.1 h1, fun _ => rfl⟩

/-- R112: a record handed over, in full. Each view that selects it keeps it behind its records if its ring has room and
counts a drop if not, and no other slot changes. -/
theorem appendRecord_spec (r : CaptureRecord) {s : State} (hd : ringsDisjoint s) :
    (∀ v : LinkId, (appendRecord r s).rings[v] = ringAfter s v r) ∧
    (∀ v : LinkId, keeps s v r →
      readSlot (appendRecord r s).slots (slotBehindHead s v s.rings[v].count) = some r) ∧
    ∀ n, (∀ v : LinkId, keeps s v r → n ≠ slotBehindHead s v s.rings[v].count) →
      readSlot (appendRecord r s).slots n = readSlot s.slots n := by
  have key : ∀ (xs : List LinkId) (u : State), xs.Nodup → u.views = s.views →
      (∀ v ∈ xs, u.rings[v] = s.rings[v]) →
      (∀ v ∈ xs, (xs.foldl (appendTo r) u).rings[v] = ringAfter s v r) ∧
      (∀ v : LinkId, v ∉ xs → (xs.foldl (appendTo r) u).rings[v] = u.rings[v]) ∧
      (∀ v ∈ xs, keeps s v r →
        readSlot (xs.foldl (appendTo r) u).slots (slotBehindHead s v s.rings[v].count) = some r) ∧
      ∀ n, (∀ v ∈ xs, keeps s v r → n ≠ slotBehindHead s v s.rings[v].count) →
        readSlot (xs.foldl (appendTo r) u).slots n = readSlot u.slots n := by
    intro xs
    induction xs with
    | nil => intro u _ _ _; exact ⟨by simp, by simp, by simp, by simp⟩
    | cons x xs ih =>
      intro u hn hv hr
      rw [List.nodup_cons] at hn
      rw [List.foldl_cons]
      have hdu : ringsDisjoint u := by unfold ringsDisjoint; rw [hv]; exact hd
      have hkx : keeps u x r ↔ keeps s x r := by unfold keeps; rw [hv, hr x (by simp)]
      have hsx : slotBehindHead u x u.rings[x].count = slotBehindHead s x s.rings[x].count := by
        unfold slotBehindHead; rw [hv, hr x (by simp)]
      have hax : ringAfter u x r = ringAfter s x r := by unfold ringAfter; rw [hv, hr x (by simp)]
      have hne : ∀ v ∈ xs, v ≠ x := fun v hv' e => hn.1 (e ▸ hv')
      obtain ⟨i1, i2, i3, i4⟩ := ih (appendTo r u x) hn.2 (by simp [hv]) (by
        intro v hv'; rw [appendTo_rings, if_neg (hne v hv')]; exact hr v (by simp [hv']))
      have hsl := appendTo_slots r hdu x
      rw [hkx, hsx] at hsl
      refine ⟨?_, ?_, ?_, ?_⟩
      · intro v hv'
        rcases List.mem_cons.1 hv' with rfl | hm
        · rw [i2 v hn.1, appendTo_rings, if_pos rfl, hax]
        · exact i1 v hm
      · intro v hv'
        simp only [List.mem_cons, not_or] at hv'
        rw [i2 v hv'.2, appendTo_rings, if_neg hv'.1]
      · intro v hv' hk
        rcases List.mem_cons.1 hv' with rfl | hm
        · rw [i4 _ ?_]
          · exact (hsl _).1 ⟨hk, rfl⟩
          · intro w hw hkw he
            exact hne w hw (slotBehindHead_inj hd hkw.2 hk.2 he.symm).1
        · exact i3 v hm hk
      · intro n hn'
        rw [i4 n fun v hv' => hn' v (by simp [hv'])]
        refine (hsl n).2 ?_
        rintro ⟨hk, rfl⟩
        exact hn' x (by simp) hk rfl
  obtain ⟨h1, -, h3, h4⟩ := key allLinks s (by decide) rfl (fun _ _ => rfl)
  exact ⟨fun v => h1 v (by simp), fun v => h3 v (by simp), fun n hn => h4 n fun v _ => hn v⟩


/-! ## Several records -/

theorem keptRecords_length (s : State) (v : LinkId) (rs : List CaptureRecord) :
    (keptRecords s v rs).length =
      min (8 * s.views[v].settings.ringLength - s.rings[v].count) (selectedRecords s v rs).length :=
  List.length_take

/-- One more record at the end of those handed over: kept, dropped, or not selected. -/
theorem records_snoc (s : State) (v : LinkId) (rs : List CaptureRecord) (r : CaptureRecord) :
    (s.views[v].settings.triggerSelection.getLsbD r.trigger.val = false ∧
      selectedRecords s v (rs ++ [r]) = selectedRecords s v rs ∧ keptRecords s v (rs ++ [r]) = keptRecords s v rs) ∨
    (s.views[v].settings.triggerSelection.getLsbD r.trigger.val = true ∧
      s.rings[v].count + (keptRecords s v rs).length < 8 * s.views[v].settings.ringLength ∧
      selectedRecords s v (rs ++ [r]) = selectedRecords s v rs ++ [r] ∧
      keptRecords s v (rs ++ [r]) = keptRecords s v rs ++ [r]) ∨
    (s.views[v].settings.triggerSelection.getLsbD r.trigger.val = true ∧
      8 * s.views[v].settings.ringLength ≤ s.rings[v].count + (keptRecords s v rs).length ∧
      selectedRecords s v (rs ++ [r]) = selectedRecords s v rs ++ [r] ∧
      keptRecords s v (rs ++ [r]) = keptRecords s v rs) := by
  have hl := keptRecords_length s v rs
  by_cases h1 : s.views[v].settings.triggerSelection.getLsbD r.trigger.val = true
  · have hsel : selectedRecords s v (rs ++ [r]) = selectedRecords s v rs ++ [r] := by
      unfold selectedRecords; rw [List.filter_append, List.filter_cons_of_pos (by simpa using h1)]; rfl
    by_cases h2 : (selectedRecords s v rs).length < 8 * s.views[v].settings.ringLength - s.rings[v].count
    · refine .inr (.inl ⟨h1, by omega, hsel, ?_⟩)
      unfold keptRecords
      rw [hsel, List.take_of_length_le (by simp; omega), List.take_of_length_le (by omega)]
    · refine .inr (.inr ⟨h1, by omega, hsel, ?_⟩)
      unfold keptRecords
      rw [hsel, List.take_append_of_le_length (by omega)]
  · have hsel : selectedRecords s v (rs ++ [r]) = selectedRecords s v rs := by
      unfold selectedRecords; rw [List.filter_append, List.filter_cons_of_neg (by simpa using h1)]; simp
    exact .inl ⟨by simpa using h1, hsel, by unfold keptRecords; rw [hsel]⟩

/-- R112: the hand-over of records one after another. -/
def appendRecords (rs : List CaptureRecord) (s : State) : State := rs.foldl (fun s r => appendRecord r s) s

theorem appendRecords_views (rs : List CaptureRecord) (s : State) : (appendRecords rs s).views = s.views :=
  foldl_keeps State.views _ (fun s x => by simp) rs s

theorem appendRecords_triggers (rs : List CaptureRecord) (s : State) : (appendRecords rs s).triggers = s.triggers :=
  foldl_keeps State.triggers _ (fun s x => by simp) rs s

/-- R112: what the hand-over of several records comes to, in each view. -/
theorem appendRecords_handsOver {s : State} (hd : ringsDisjoint s) (rs : List CaptureRecord) :
    handsOver rs s (appendRecords rs s) := by
  induction rs using List.reverseRecOn with
  | nil =>
    refine ⟨fun v => ?_, fun v k r h => ?_, fun n _ => rfl⟩
    · show s.rings[v] = _
      simp [keptRecords, selectedRecords]
    · simp [keptRecords, selectedRecords] at h
  | append_singleton rs r ih =>
    have hstep : appendRecords (rs ++ [r]) s = appendRecord r (appendRecords rs s) := by
      unfold appendRecords; rw [List.foldl_append]; rfl
    rw [hstep]
    generalize hu : appendRecords rs s = u at ih
    have hv : u.views = s.views := by rw [← hu]; exact appendRecords_views rs s
    obtain ⟨i1, i2, i3⟩ := ih
    have hdu : ringsDisjoint u := by unfold ringsDisjoint; rw [hv]; exact hd
    obtain ⟨a1, a2, a3⟩ := appendRecord_spec r hdu
    have hslot : ∀ (v : LinkId) (k : Nat), slotBehindHead u v k = slotBehindHead s v k := by
      intro v k; unfold slotBehindHead; rw [hv, i1 v]
    have hcount : ∀ v : LinkId, u.rings[v].count = s.rings[v].count + (keptRecords s v rs).length := by
      intro v; rw [i1 v]
    have hkeeps : ∀ v : LinkId, keeps u v r ↔
        s.views[v].settings.triggerSelection.getLsbD r.trigger.val = true ∧
          s.rings[v].count + (keptRecords s v rs).length < 8 * s.views[v].settings.ringLength := by
      intro v; unfold keeps; rw [hv, hcount]
    have hle : ∀ v : LinkId, (keptRecords s v rs).length ≤ (selectedRecords s v rs).length := by
      intro v; rw [keptRecords_length]; omega
    have hlen : ∀ v : LinkId, ∀ k < (keptRecords s v rs).length,
        s.rings[v].count + k < 8 * s.views[v].settings.ringLength := by
      intro v k hk; have := keptRecords_length s v rs; omega
    refine ⟨fun v => ?_, fun v k r' h => ?_, fun n hn => ?_⟩
    · rw [a1 v]
      unfold ringAfter
      rw [hv, hcount, i1 v]
      obtain ⟨h1, h2, h3⟩ | ⟨h1, h2, h3, h4⟩ | ⟨h1, h2, h3, h4⟩ := records_snoc s v rs r
      · rw [h1, h2, h3]; simp
      · rw [h3, h4, if_pos h1, if_pos h2]
        simp only [List.length_append, List.length_singleton, Nat.add_sub_add_right, Nat.add_assoc]
      · rw [h3, h4, if_pos h1, if_neg (by omega)]
        simp only [List.length_append, List.length_singleton]
        have : (selectedRecords s v rs).length + 1 - (keptRecords s v rs).length =
            ((selectedRecords s v rs).length - (keptRecords s v rs).length) + 1 := by have := hle v; omega
        rw [this, Function.iterate_succ_apply']
    · have old : ∀ k r', (keptRecords s v rs)[k]? = some r' →
          readSlot (appendRecord r u).slots (slotBehindHead s v (s.rings[v].count + k)) = some r' := by
        intro k r' h
        have hk : k < (keptRecords s v rs).length := (List.getElem?_eq_some_iff.1 h).1
        rw [a3 _ ?_]
        · exact i2 v k r' h
        · intro w hw he
          rw [hslot, hcount] at he
          have := (slotBehindHead_inj hd (hlen v k hk) ((hkeeps w).1 hw).2 he)
          obtain ⟨rfl, h'⟩ := this
          omega
      obtain ⟨-, -, h3⟩ | ⟨h1, h2, -, h4⟩ | ⟨-, -, -, h4⟩ := records_snoc s v rs r
      · exact old k r' (by rwa [h3] at h)
      · rw [h4, List.getElem?_append] at h
        split at h
        · exact old k r' h
        · next hk =>
          have h0 : k - (keptRecords s v rs).length = 0 := by
            have := (List.getElem?_eq_some_iff.1 h).1
            simp only [List.length_singleton] at this
            omega
          rw [h0] at h
          cases h
          have h2' := a2 v ((hkeeps v).2 ⟨h1, h2⟩)
          rw [hslot, hcount] at h2'
          have : k = (keptRecords s v rs).length := by omega
          rw [this]
          exact h2'
      · exact old k r' (by rwa [h4] at h)
    · have hsub : ∀ v : LinkId, ∀ k < (keptRecords s v rs).length,
          k < (keptRecords s v (rs ++ [r])).length := by
        intro v k hk
        obtain ⟨-, -, h3⟩ | ⟨-, -, -, h4⟩ | ⟨-, -, -, h4⟩ := records_snoc s v rs r
        · rwa [h3]
        · rw [h4]; simp; omega
        · rwa [h4]
      rw [a3 n ?_]
      · exact i3 n fun v k hk => hn v k (hsub v k hk)
      · intro v hk
        rw [hslot, hcount]
        have hk' := (hkeeps v).1 hk
        refine hn v _ ?_
        obtain ⟨h1, -, -⟩ | ⟨-, -, -, h4⟩ | ⟨-, h2, -, -⟩ := records_snoc s v rs r
        · rw [h1] at hk'; cases hk'.1
        · rw [h4]; simp
        · omega

/-! ## The captures that an event completes -/

/-- R93, R102: a finished record carries exactly the filled entries. -/
theorem finishedEntries_some (es : List Entry) (rs : List RecordEntry) :
    finishedEntries es = some rs ↔
      es = rs.map fun e => { channel := e.channel, stage := .filled e.status e.along e.across } := by
  induction es generalizing rs with
  | nil => cases rs <;> simp [finishedEntries]
  | cons e es ih =>
    unfold finishedEntries
    constructor
    · intro h
      split at h
      · next st x y qs h1 h2 =>
        cases h
        rw [List.map_cons, ← (ih qs).1 h2]
        obtain ⟨c, stage⟩ := e
        cases h1
        rfl
      · cases h
    · intro h
      cases rs with
      | nil => cases h
      | cons q qs =>
        rw [List.map_cons] at h
        obtain ⟨rfl, h2⟩ := List.cons.inj h
        rw [(ih qs).2 h2]

theorem completeCapture_some (s : State) (i : TriggerId) (r : CaptureRecord) :
    completeCapture? s i = some r ↔
      r.trigger = i ∧ ∃ cap, s.triggers[i].capture = some cap ∧ isRecordOf cap r := by
  unfold completeCapture? finishedRecord isRecordOf
  cases hc : s.triggers[i].capture with
  | none => simp
  | some cap =>
    simp only [Option.map_eq_some_iff, Option.some.injEq, exists_eq_left']
    constructor
    · rintro ⟨es, h1, rfl⟩
      exact ⟨rfl, rfl, rfl, rfl, (finishedEntries_some _ _).1 h1⟩
    · rintro ⟨h1, h2, h3, h4, h5⟩
      refine ⟨r.entries, (finishedEntries_some _ _).2 h5, ?_⟩
      cases r
      simp_all

/-- Two states whose views, rings and slots agree take a record alike. -/
theorem appendRecord_agree (r : CaptureRecord) {u w : State} (hv : u.views = w.views) (hr : u.rings = w.rings)
    (hs : u.slots = w.slots) :
    (appendRecord r u).rings = (appendRecord r w).rings ∧ (appendRecord r u).slots = (appendRecord r w).slots := by
  unfold appendRecord
  generalize allLinks = xs
  induction xs generalizing u w with
  | nil => exact ⟨hr, hs⟩
  | cons x xs ih =>
    refine ih (by simp [hv]) ?_ ?_
    · unfold appendTo State.modRing; dsimp only; rw [hv, hr]; (repeat' split) <;> first | rfl | exact hr
    · unfold appendTo State.modRing; dsimp only; rw [hv, hr, hs]; (repeat' split) <;> first | rfl | exact hs

/-- R102, R112: the captures without an unfilled entry give their records, handed over in ascending trigger number. -/
theorem finishCaptures_records (s : State) :
    finishedRecords (fun i => s.triggers[i].capture) (allTriggers.filterMap (completeCapture? s)) ∧
      (finishCaptures s).rings = (appendRecords (allTriggers.filterMap (completeCapture? s)) s).rings ∧
      (finishCaptures s).slots = (appendRecords (allTriggers.filterMap (completeCapture? s)) s).slots := by
  refine ⟨⟨?_, fun r => ?_⟩, ?_⟩
  · have hsub : ((allTriggers.filterMap (completeCapture? s)).map (·.trigger)).Sublist allTriggers := by
      generalize allTriggers = xs
      induction xs with
      | nil => simp
      | cons x xs ih =>
        rw [List.filterMap_cons]
        split
        · exact ih.cons x
        · next r hr => rw [List.map_cons, ((completeCapture_some s x r).1 hr).1]; exact ih.cons_cons x
    exact List.Pairwise.sublist hsub (by decide)
  · rw [List.mem_filterMap]
    constructor
    · rintro ⟨i, -, h⟩
      obtain ⟨rfl, h⟩ := (completeCapture_some s i r).1 h
      exact h
    · intro h
      exact ⟨r.trigger, by simp, (completeCapture_some s r.trigger r).2 ⟨rfl, h⟩⟩
  · have key : ∀ (xs : List TriggerId) (u w : State), xs.Nodup → (∀ i ∈ xs, u.triggers[i] = s.triggers[i]) →
        u.views = w.views → u.rings = w.rings → u.slots = w.slots →
        (xs.foldl finishCapture u).rings = (appendRecords (xs.filterMap (completeCapture? s)) w).rings ∧
          (xs.foldl finishCapture u).slots = (appendRecords (xs.filterMap (completeCapture? s)) w).slots := by
      intro xs
      induction xs with
      | nil => intro u w _ _ _ hr hs; exact ⟨hr, hs⟩
      | cons x xs ih =>
        intro u w hn ht hv hr hs
        rw [List.nodup_cons] at hn
        rw [List.foldl_cons, List.filterMap_cons]
        have hx : completeCapture? u x = completeCapture? s x := by
          unfold completeCapture?; rw [ht x (by simp)]
        have hrest : ∀ i ∈ xs, (finishCapture u x).triggers[i] = s.triggers[i] := by
          intro i hi
          rw [finishCapture_triggers, if_neg (fun e : i = x => hn.1 (e ▸ hi))]
          exact ht i (by simp [hi])
        have hf : finishCapture u x = match completeCapture? s x with
            | none => u
            | some r => appendRecord r (u.modTrigger x fun g => { g with capture := none }) := by
          cases h : completeCapture? s x <;> simp only [finishCapture, hx, h]
        cases hc : completeCapture? s x with
        | none =>
          rw [hc] at hf
          exact ih _ w hn.2 hrest (by rw [hf]; exact hv) (by rw [hf]; exact hr) (by rw [hf]; exact hs)
        | some r =>
          rw [hc] at hf
          have ha := appendRecord_agree r (u := u.modTrigger x fun g => { g with capture := none }) (w := w) hv hr hs
          refine ih _ (appendRecord r w) hn.2 hrest ?_ ?_ ?_
          · rw [hf]; simp [hv]
          · rw [hf]; exact ha.1
          · rw [hf]; exact ha.2
    exact key allTriggers s s (by decide) (fun _ _ => rfl) rfl rfl rfl

theorem handsOver_of_rings {rs : List CaptureRecord} {s t u : State} (h : handsOver rs s t) (hr : u.rings = t.rings)
    (hs : u.slots = t.slots) : handsOver rs s u := by
  obtain ⟨h1, h2, h3⟩ := h
  exact ⟨fun v => by rw [hr]; exact h1 v, fun v k r hk => by rw [hs]; exact h2 v k r hk,
    fun n hn => by rw [hs]; exact h3 n hn⟩

/-- A hand-over looks at nothing of the state before it but the rings, the slots and the settings of the views. -/
theorem handsOver_from {rs : List CaptureRecord} {s u t : State} (h : handsOver rs s t) (hr : u.rings = s.rings)
    (hs : u.slots = s.slots) (hv : ∀ v : LinkId, u.views[v].settings = s.views[v].settings) : handsOver rs u t := by
  have hb : ∀ v k, slotBehindHead u v k = slotBehindHead s v k := fun v k => by unfold slotBehindHead; rw [hr, hv]
  have hk : ∀ v, keptRecords u v rs = keptRecords s v rs := fun v => by
    unfold keptRecords selectedRecords; rw [hr, hv]
  have hl : ∀ v, selectedRecords u v rs = selectedRecords s v rs := fun v => by unfold selectedRecords; rw [hv]
  unfold handsOver at *
  simp only [hr, hs, hb, hk, hl]
  exact h

/-- R102, R112: what an event that ends with finished captures does to the capture memory. -/
theorem finishCaptures_handsOver {s : State} (hd : ringsDisjoint s) :
    ∃ rs, finishedRecords (fun i => s.triggers[i].capture) rs ∧ handsOver rs s (finishCaptures s) := by
  obtain ⟨h1, h2, h3⟩ := finishCaptures_records s
  exact ⟨_, h1, handsOver_of_rings (appendRecords_handsOver hd _) h2 h3⟩

end Sys2Proof.Machine
end

