-- ==== Sys2Proof/Laws/Lines.lean ====
section
/-! SUPPORT. The characters of a client link and the bytes of the sensor bus as levels in time, and what a character
time does to a link. -/

namespace Sys2Proof.Machine

/-! ## Bits on a line -/

theorem character_start (b : Byte) : (character b).getLsbD 0 = false := by
  unfold character; rw [BitVec.getLsbD_append]; simp

theorem character_stop (b : Byte) : (character b).getLsbD 9 = true := by
  unfold character; rw [BitVec.getLsbD_append, BitVec.getLsbD_append]; simp

theorem character_data (b : Byte) {n : Nat} (h : n < 8) : (character b).getLsbD (n + 1) = b.getLsbD n := by
  unfold character; rw [BitVec.getLsbD_append, BitVec.getLsbD_append]; simp [h]

@[simp] theorem hasStartBit_character (b : Byte) : hasStartBit (character b) = true := by
  unfold hasStartBit; rw [character_start]; rfl

@[simp] theorem hasStopBit_character (b : Byte) : hasStopBit (character b) = true := character_stop b

@[simp] theorem dataOf_character (b : Byte) : dataOf (character b) = b := by
  apply BitVec.eq_of_getLsbD_eq
  intro i hi
  simp only [dataOf, BitVec.getLsbD_extractLsb', hi, decide_true, Bool.true_and]
  rw [Nat.add_comm, character_data b hi]

@[simp] theorem msbFirst_msbFirst (x : BitVec 8) : msbFirst (msbFirst x) = x := by
  simp [msbFirst]

theorem msbFirst_bit (x : BitVec 8) {n : Nat} (h : n < 8) : (msbFirst x).getLsbD n = x.getLsbD (7 - n) := by
  unfold msbFirst; rw [BitVec.getLsbD_reverse, BitVec.getMsbD]; simp [h]

/-! ## A character time -/

/-- While the client owns the line, the character of a byte is that byte. -/
theorem takeCharacter_client {l : LinkId} {b : Byte} {s : State} (h : s.links[l].owner = .client) :
    takeCharacter l (character b) s = receiveByte l b s := by
  unfold takeCharacter; rw [h]; simp

theorem takeCharacter_am48 {l : LinkId} {line : Samples 10} {s : State} (h : s.links[l].owner = .am48) :
    takeCharacter l line s = s.modLink l (Link.readBack line) := by
  unfold takeCharacter; rw [h]

theorem driven_sending {k : Link} {f : TxFrame} {b : Byte} {more : List Byte} (h : k.tx = .sending f)
    (hl : f.left = b :: more) : k.driven = character b := by
  unfold Link.driven; rw [h]; simp only [hl]

/-- Between characters, and in GUARD, the AM48 leaves the line at mark. -/
theorem driven_mark {k : Link} (h : ∀ f, k.tx = .sending f → f.left = []) : k.driven = allMark := by
  unfold Link.driven
  split
  · next f hf => rw [h f hf]
  · rfl
  · rfl

/-- What a character time of the AM48's own ownership does: perhaps CONTENTION, and one character fewer to send. -/
theorem readBack_cases (line : Samples 10) (k : Link) :
    k.readBack line = k ∨ k.readBack line = k.sendsOn ∨ k.readBack line = (k.record .contention).sendsOn := by
  unfold Link.readBack
  dsimp only
  split
  · split
    · exact .inr (.inl rfl)
    · exact .inr (.inr rfl)
  · exact .inl rfl

end Sys2Proof.Machine
end

