-- ==== Sys2Proof/Laws/Writes.lean ====
section
/-! SUPPORT. A SETTING WRITE: what its checks establish, which settings it can leave changed, and what its application
comes to in each region of the settings map. -/

namespace Sys2Proof.Machine

/-! ## The checks -/

theorem inRange_some {a b n x : Nat} (h : inRange? a b n = some x) : a ≤ x ∧ x ≤ b ∧ x = n := by
  unfold inRange? at h
  split at h
  · injection h with h; subst h; omega
  · cases h

/-- What an accepted write has passed. -/
theorem checkWrite_ok {s : State} {l : LinkId} {p : List Byte} {w : AcceptedWrite} (h : checkWrite s l p = .ok w) :
    ∃ a values, parseWrite p = some (a, values) ∧ resolveRun a values.length = some w.run ∧
      (∀ x ∈ w.run, x.access ≠ .readOnly) ∧ writeRun (candidateOf s l) w.run values = some w.left ∧
      combinationsLegal w.run w.left = true ∧
      (touchesRing w.run = true → overlapsOther s.views l w.left.own.ringBase w.left.own.ringLength = false) := by
  unfold checkWrite at h
  split at h
  · cases h
  · next a values hp =>
    split at h
    · cases h
    · next run hrun =>
      split at h
      · cases h
      · next hro =>
        split at h
        · cases h
        · split at h
          · cases h
          · next k hk =>
            split at h
            · next hc =>
              split at h
              · cases h
              · next ho =>
                cases h
                refine ⟨a, values, hp, hrun, ?_, hk, hc, ?_⟩
                · simpa using hro
                · intro ht; simpa [ht] using ho
            · cases h

/-- A property that each setting of a run keeps is kept by the run. -/
theorem writeRun_keeps {P : Candidate → Prop} {run : List Setting} {vs : List Word} {k k' : Candidate}
    (step : ∀ x ∈ run, ∀ v k k', writeOne k x v = some k' → P k → P k') (h : writeRun k run vs = some k')
    (hp : P k) : P k' := by
  induction run generalizing k vs with
  | nil => unfold writeRun at h; cases h; exact hp
  | cons x xs ih =>
    cases vs with
    | nil => unfold writeRun at h; cases h; exact hp
    | cons v vs =>
      unfold writeRun at h
      split at h
      · next k1 h1 => exact ih (fun y hy => step y (by simp [hy])) h (step x (by simp) v k k1 h1 hp)
      · cases h

/-! ## The region of a run -/

/-- The block of settings that a run belongs to: 0 global, 1 to 8 a channel, 9 to 12 a trigger, 13 the own view. -/
def regionOf : Setting → Nat
  | .global _ => 0
  | .channel c _ => 1 + c.val
  | .trigger t _ => 9 + t.val
  | .own _ => 13

/-- Whether the settings at `a` and the address after it, if both exist, belong to one region. -/
def sameRegion (a : Nat) : Bool :=
  match resolve a, resolve (a + 1) with
  | some x, some y => regionOf x == regionOf y
  | _, _ => true

theorem sameRegion_low : (List.range 0x400).all sameRegion = true := by decide +kernel

theorem resolve_high {a : Nat} (h : 0x400 ≤ a) : resolve a = none := by
  unfold resolve
  rw [if_neg (by omega), if_neg (by omega), if_neg (by omega), if_neg (by omega)]
  have : ownField? (a - 0x300) = none := by
    unfold ownField?; split <;> first | omega | rfl
  rw [this]; rfl

/-- Settings at consecutive addresses belong to one region: every region ends at an address where nothing exists. -/
theorem regionOf_next {a : Nat} {x y : Setting} (hx : resolve a = some x) (hy : resolve (a + 1) = some y) :
    regionOf x = regionOf y := by
  have ha : a < 0x400 := by
    by_cases h : a < 0x400
    · exact h
    · rw [resolve_high (by omega)] at hx; cases hx
  have := List.all_eq_true.1 sameRegion_low a (by simpa using ha)
  unfold sameRegion at this
  rw [hx, hy] at this
  simpa using this

theorem resolveRun_region {a n : Nat} {run : List Setting} (h : resolveRun a n = some run) :
    ∃ g, ∀ x ∈ run, regionOf x = g := by
  have key : ∀ n a run, resolveRun a n = some run → ∀ x0, resolve a = some x0 →
      ∀ x ∈ run, regionOf x = regionOf x0 := by
    intro n
    induction n with
    | zero => intro a run h x0 _ x hx; cases h; cases hx
    | succ n ih =>
      intro a run h x0 h0 x hx
      unfold resolveRun at h
      split at h
      · next y ys h1 h2 =>
        cases h
        rw [h0] at h1; cases h1
        rcases List.mem_cons.1 hx with rfl | hm
        · rfl
        · cases n with
          | zero => cases h2; cases hm
          | succ n =>
            cases hr : resolve (a + 1) with
            | none => unfold resolveRun at h2; rw [hr] at h2; cases h2
            | some x1 => rw [ih (a + 1) ys h2 x1 hr x hm]; exact (regionOf_next h0 hr).symm
      · cases h
  cases n with
  | zero => cases h; exact ⟨0, fun x hx => by cases hx⟩
  | succ n =>
    cases hr : resolve a with
    | none => unfold resolveRun at h; rw [hr] at h; cases h
    | some x0 => exact ⟨regionOf x0, key _ _ _ h x0 hr⟩

theorem run_nonempty {p : List Byte} {a : Nat} {values : List Word} {run : List Setting}
    (hp : parseWrite p = some (a, values)) (hr : resolveRun a values.length = some run) : run ≠ [] := by
  have hv : values ≠ [] := by
    unfold parseWrite at hp
    split at hp
    · split at hp
      · cases hp; simp
      · cases hp
    · cases hp
  cases values with
  | nil => exact absurd rfl hv
  | cons v vs =>
    intro h
    rw [h] at hr
    simp only [List.length_cons] at hr
    unfold resolveRun at hr
    split at hr <;> cases hr

/-! ## What an accepted write leaves -/

/-- The settings of a run lie in one channel, one trigger, the global region or the writer's own view, and a write
leaves every other setting as it was. -/
inductive LeftIn (s : State) (l : LinkId) (w : AcceptedWrite) : Prop where
  | channel (c : ChannelId) (run : ∀ x ∈ w.run, ∃ f, x = .channel c f) (own : w.left.own = s.views[l].settings)
      (shared : ∃ cs, w.left.shared = { s.settings with channels := put s.settings.channels c cs })
  | trigger (t : TriggerId) (run : ∀ x ∈ w.run, ∃ f, x = .trigger t f) (own : w.left.own = s.views[l].settings)
      (shared : ∃ ts, w.left.shared = { s.settings with triggers := put s.settings.triggers t ts })
  | global (run : ∀ x ∈ w.run, ∃ f, x = .global f) (own : w.left.own = s.views[l].settings)
      (shared : ∃ n, w.left.shared = { s.settings with leaseTimeout := n })
  | own (run : ∀ x ∈ w.run, ∃ f, x = .own f) (shared : w.left.shared = s.settings)

theorem writeOne_channel {k k' : Candidate} {c : ChannelId} {f : ChannelField} {v : Word}
    (h : writeOne k (.channel c f) v = some k') :
    ∃ cs, k' = { k with shared := { k.shared with channels := put k.shared.channels c cs } } := by
  simp only [writeOne, Option.map_eq_some_iff] at h
  obtain ⟨m, -, rfl⟩ := h
  exact ⟨m, rfl⟩

theorem writeOne_trigger {k k' : Candidate} {t : TriggerId} {f : TriggerField} {v : Word}
    (h : writeOne k (.trigger t f) v = some k') :
    ∃ ts, k' = { k with shared := { k.shared with triggers := put k.shared.triggers t ts } } := by
  simp only [writeOne, Option.map_eq_some_iff] at h
  obtain ⟨m, -, rfl⟩ := h
  exact ⟨m, rfl⟩

theorem writeOne_own {k k' : Candidate} {f : OwnField} {v : Word} (h : writeOne k (.own f) v = some k') :
    ∃ vs, k' = { k with own := vs } := by
  simp only [writeOne, Option.map_eq_some_iff] at h
  obtain ⟨m, -, rfl⟩ := h
  exact ⟨m, rfl⟩

theorem writeOne_global {k k' : Candidate} {f : GlobalField} {v : Word} (h : writeOne k (.global f) v = some k') :
    ∃ n, k' = { k with shared := { k.shared with leaseTimeout := n } } := by
  cases f <;> simp only [writeOne, Option.map_eq_some_iff, reduceCtorEq] at h
  obtain ⟨m, -, rfl⟩ := h
  exact ⟨m, rfl⟩

/-- Every accepted write is of one of those four forms. -/
theorem leftIn_of_ok {s : State} {l : LinkId} {p : List Byte} {w : AcceptedWrite} (hc : checkWrite s l p = .ok w) :
    LeftIn s l w := by
  obtain ⟨a, values, hp, hres, -, hrun, -, -⟩ := checkWrite_ok hc
  obtain ⟨g, hg⟩ := resolveRun_region hres
  obtain ⟨x0, hx0⟩ := List.exists_mem_of_ne_nil _ (run_nonempty hp hres)
  have hall : ∀ x ∈ w.run, regionOf x = regionOf x0 := fun x hx => by rw [hg x hx, hg x0 hx0]
  cases x0 with
  | global f =>
    have hrg : ∀ x ∈ w.run, ∃ f, x = .global f := by
      intro x hx
      have := hall x hx
      cases x with
      | global f => exact ⟨f, rfl⟩
      | channel c f => simp [regionOf] at this
      | trigger t f => simp [regionOf] at this
      | own f => simp [regionOf] at this
    have hk := writeRun_keeps (P := fun k => k.own = s.views[l].settings ∧
      ∃ n, k.shared = { s.settings with leaseTimeout := n }) (by
        rintro x hx v k k' hw ⟨h1, n, h2⟩
        obtain ⟨f, rfl⟩ := hrg x hx
        obtain ⟨m, rfl⟩ := writeOne_global hw
        exact ⟨h1, m, by simp [h2]⟩) hrun ⟨rfl, s.settings.leaseTimeout, rfl⟩
    exact .global hrg hk.1 hk.2
  | channel c f =>
    have hrg : ∀ x ∈ w.run, ∃ f, x = .channel c f := by
      intro x hx
      have := hall x hx
      cases x with
      | global f => simp [regionOf] at this; omega
      | channel d f =>
        simp only [regionOf] at this
        have : d = c := Fin.ext (by omega)
        subst this
        exact ⟨f, rfl⟩
      | trigger t f => simp [regionOf] at this; omega
      | own f => simp [regionOf] at this; omega
    have hk := writeRun_keeps (P := fun k => k.own = s.views[l].settings ∧
      ∃ cs, k.shared = { s.settings with channels := put s.settings.channels c cs }) (by
        rintro x hx v k k' hw ⟨h1, cs, h2⟩
        obtain ⟨f, rfl⟩ := hrg x hx
        obtain ⟨m, rfl⟩ := writeOne_channel hw
        exact ⟨h1, m, by simp only [h2, put_put]⟩) hrun
        ⟨rfl, s.settings.channels[c], by rw [put_self]; rfl⟩
    exact .channel c hrg hk.1 hk.2
  | trigger t f =>
    have hrg : ∀ x ∈ w.run, ∃ f, x = .trigger t f := by
      intro x hx
      have := hall x hx
      cases x with
      | global f => simp [regionOf] at this; omega
      | channel d f => simp [regionOf] at this; omega
      | trigger u f =>
        simp only [regionOf] at this
        have : u = t := Fin.ext (by omega)
        subst this
        exact ⟨f, rfl⟩
      | own f => simp [regionOf] at this; omega
    have hk := writeRun_keeps (P := fun k => k.own = s.views[l].settings ∧
      ∃ ts, k.shared = { s.settings with triggers := put s.settings.triggers t ts }) (by
        rintro x hx v k k' hw ⟨h1, ts, h2⟩
        obtain ⟨f, rfl⟩ := hrg x hx
        obtain ⟨m, rfl⟩ := writeOne_trigger hw
        exact ⟨h1, m, by simp only [h2, put_put]⟩) hrun
        ⟨rfl, s.settings.triggers[t], by rw [put_self]; rfl⟩
    exact .trigger t hrg hk.1 hk.2
  | own f =>
    have hrg : ∀ x ∈ w.run, ∃ f, x = .own f := by
      intro x hx
      have := hall x hx
      cases x with
      | global f => simp [regionOf] at this
      | channel d f => simp [regionOf] at this; omega
      | trigger u f => simp [regionOf] at this; omega
      | own f => exact ⟨f, rfl⟩
    have hk := writeRun_keeps (P := fun k => k.shared = s.settings) (by
        rintro x hx v k k' hw h1
        obtain ⟨f, rfl⟩ := hrg x hx
        obtain ⟨m, rfl⟩ := writeOne_own hw
        exact h1) hrun rfl
    exact .own hrg hk

/-! ## What its application comes to -/

theorem applyEnable_same {old new : Settings} {s : State} {c : ChannelId}
    (h : old.channels[c].enable = new.channels[c].enable) : applyEnable old new s c = s := by
  unfold applyEnable; rw [h]; cases new.channels[c].enable <;> rfl

theorem applyTriggerEnable_same {old new : Settings} {s : State} {t : TriggerId}
    (h : old.triggers[t].enable = new.triggers[t].enable) : applyTriggerEnable old new s t = s := by
  unfold applyTriggerEnable; rw [h]; cases new.triggers[t].enable <;> rfl

theorem applyForcedTier_none {run : List Setting} {old new : Settings} {s : State} {c : ChannelId}
    (h : Setting.channel c .forcedTier ∉ run) : applyForcedTier run old new s c = s := by
  unfold applyForcedTier wrote; rw [if_neg (by simpa using h)]

theorem applyOwn_same {l : LinkId} {s : State} : applyOwn l s.views[l].settings s = s := by
  unfold applyOwn
  refine State.eq_of_fields rfl rfl rfl rfl rfl rfl rfl ?_ rfl rfl rfl rfl rfl rfl rfl
  exact upd_eq_self _ _ _ (by unfold View.apply; simp)

theorem applyPlacement_none {l : LinkId} {run : List Setting} {s : State} (h : touchesRing run = false) :
    applyPlacement l run s = s := by
  unfold applyPlacement; rw [h]; rfl

theorem applyAttentionMode_same {l : LinkId} {m : AttentionMode} {s : State}
    (h : s.views[l].settings.attentionMode = m) : applyAttentionMode l m s = s := by
  unfold applyAttentionMode; rw [if_pos h]

theorem touchesRing_none {run : List Setting} (h : ∀ f, Setting.own f ∉ run) : touchesRing run = false := by
  unfold touchesRing wrote; simp [h]

/-- A write in one channel's settings. -/
theorem applyWrite_channel {s : State} {l : LinkId} {w : AcceptedWrite} {c : ChannelId} {cs : ChannelSettings}
    (hr : ∀ x ∈ w.run, ∃ f, x = .channel c f) (ho : w.left.own = s.views[l].settings)
    (hs : w.left.shared = { s.settings with channels := put s.settings.channels c cs }) :
    applyWrite l w s =
      attendAll (applyForcedTier w.run s.settings w.left.shared
        (applyEnable s.settings w.left.shared { s with settings := w.left.shared } c) c) := by
  have hring : touchesRing w.run = false :=
    touchesRing_none fun f hf => by obtain ⟨g, hg⟩ := hr _ hf; cases hg
  have hot : ∀ d, d ≠ c → s.settings.channels[d] = w.left.shared.channels[d] := by
    intro d hd; rw [hs]; exact (get_put_ne hd).symm
  unfold applyWrite
  dsimp only
  rw [applyPlacement_none hring, ho, applyOwn_same]
  rw [foldl_single _ c allChannels (by decide) (by simp) fun u x hx => applyEnable_same (by rw [hot x hx])]
  rw [foldl_single _ c allChannels (by decide) (by simp) fun u x hx =>
    applyForcedTier_none fun hf => by obtain ⟨g, hg⟩ := hr _ hf; cases hg; exact hx rfl]
  rw [foldl_id (applyTriggerEnable s.settings w.left.shared) allTriggers _ fun u t =>
    applyTriggerEnable_same (by rw [hs])]
  rw [applyAttentionMode_same]
  simp

/-- A write in one trigger's settings. -/
theorem applyWrite_trigger {s : State} {l : LinkId} {w : AcceptedWrite} {t : TriggerId} {ts : TriggerSettings}
    (hr : ∀ x ∈ w.run, ∃ f, x = .trigger t f) (ho : w.left.own = s.views[l].settings)
    (hs : w.left.shared = { s.settings with triggers := put s.settings.triggers t ts }) :
    applyWrite l w s =
      attendAll (applyTriggerEnable s.settings w.left.shared { s with settings := w.left.shared } t) := by
  have hring : touchesRing w.run = false :=
    touchesRing_none fun f hf => by obtain ⟨g, hg⟩ := hr _ hf; cases hg
  have hot : ∀ d, d ≠ t → s.settings.triggers[d] = w.left.shared.triggers[d] := by
    intro d hd; rw [hs]; exact (get_put_ne hd).symm
  unfold applyWrite
  dsimp only
  rw [applyPlacement_none hring, ho, applyOwn_same]
  rw [foldl_id (applyEnable s.settings w.left.shared) allChannels _ fun u c => applyEnable_same (by rw [hs])]
  rw [foldl_id (applyForcedTier w.run s.settings w.left.shared) allChannels _ fun u c =>
    applyForcedTier_none fun hf => by obtain ⟨g, hg⟩ := hr _ hf; cases hg]
  rw [foldl_single _ t allTriggers (by decide) (by simp) fun u x hx => applyTriggerEnable_same (by rw [hot x hx])]
  rw [applyAttentionMode_same]
  simp

/-- A write of the lease timeout. -/
theorem applyWrite_global {s : State} {l : LinkId} {w : AcceptedWrite} {n : Nat}
    (hr : ∀ x ∈ w.run, ∃ f, x = .global f) (ho : w.left.own = s.views[l].settings)
    (hs : w.left.shared = { s.settings with leaseTimeout := n }) :
    applyWrite l w s = attendAll { s with settings := w.left.shared } := by
  have hring : touchesRing w.run = false :=
    touchesRing_none fun f hf => by obtain ⟨g, hg⟩ := hr _ hf; cases hg
  unfold applyWrite
  dsimp only
  rw [applyPlacement_none hring, ho, applyOwn_same]
  rw [foldl_id (applyEnable s.settings w.left.shared) allChannels _ fun u c => applyEnable_same (by rw [hs])]
  rw [foldl_id (applyForcedTier w.run s.settings w.left.shared) allChannels _ fun u c =>
    applyForcedTier_none fun hf => by obtain ⟨g, hg⟩ := hr _ hf; cases hg]
  rw [foldl_id (applyTriggerEnable s.settings w.left.shared) allTriggers _ fun u t =>
    applyTriggerEnable_same (by rw [hs])]
  rw [applyAttentionMode_same]
  rfl

/-- A write in the writer's own view. -/
theorem applyWrite_own {s : State} {l : LinkId} {w : AcceptedWrite} (hr : ∀ x ∈ w.run, ∃ f, x = .own f)
    (hs : w.left.shared = s.settings) :
    applyWrite l w s =
      attendAll (applyAttentionMode l s.views[l].settings.attentionMode
        (applyOwn l w.left.own (applyPlacement l w.run s))) := by
  have hset : ({ applyOwn l w.left.own (applyPlacement l w.run s) with settings := w.left.shared } : State) =
      applyOwn l w.left.own (applyPlacement l w.run s) := by
    refine State.eq_of_fields rfl rfl rfl ?_ rfl rfl rfl rfl rfl rfl rfl rfl rfl rfl rfl
    rw [hs]; simp
  unfold applyWrite
  dsimp only
  rw [hset]
  rw [foldl_id (applyEnable s.settings w.left.shared) allChannels _ fun u c => applyEnable_same (by rw [hs])]
  rw [foldl_id (applyForcedTier w.run s.settings w.left.shared) allChannels _ fun u c =>
    applyForcedTier_none fun hf => by obtain ⟨g, hg⟩ := hr _ hf; cases hg]
  rw [foldl_id (applyTriggerEnable s.settings w.left.shared) allTriggers _ fun u t =>
    applyTriggerEnable_same (by rw [hs])]

end Sys2Proof.Machine
end

