-- ==== Sys2Proof/Tests/Slice0.lean ====
section
/-! SUPPORT. Tests: the checks on operands refuse ill-formed commands; every statement's hypotheses are met by a
concrete state; and each command, on one small state, does what the spec's own examples and tables say. -/

namespace Sys2Proof.Tests

open Sys2Proof Sys2Proof.Machine

/-! ## Operands -/

theorem test_wellFormed_exchange_empty : (Instr.exchangeCompletion []).wellFormed = false := by decide
theorem test_wellFormed_exchange_long : (Instr.exchangeCompletion (List.replicate 16 0)).wellFormed = false := by decide
theorem test_wellFormed_exchange : (Instr.exchangeCompletion (List.replicate 15 0)).wellFormed = true := by decide
theorem test_wellFormed_fill_empty : (Instr.fill 0 []).wellFormed = false := by decide
theorem test_wellFormed_fill_long : (Instr.fill 0 (List.replicate 257 0)).wellFormed = false := by decide +kernel
theorem test_wellFormed_settingRead_empty : (Instr.settingRead 0 []).wellFormed = false := by decide
theorem test_wellFormed_settingRead_long :
    (Instr.settingRead 0 (List.replicate 257 0)).wellFormed = false := by decide +kernel
theorem test_wellFormed_settingWrite_empty : (Instr.settingWrite 0 []).wellFormed = false := by decide
theorem test_wellFormed_settingWrite_long :
    (Instr.settingWrite 0 (List.replicate 257 0)).wellFormed = false := by decide +kernel
theorem test_wellFormed_preset_empty : (Instr.preset 0 []).wellFormed = false := by decide
theorem test_wellFormed_preset_long : (Instr.preset 0 (List.replicate 257 0)).wellFormed = false := by decide +kernel
theorem test_wellFormed_payload : (Instr.fill 0 (List.replicate 256 0)).wellFormed = true := by decide +kernel
theorem test_wellFormed_placement_base : (Instr.ringPlacement 0 16 0).wellFormed = false := by decide
theorem test_wellFormed_placement_sum : (Instr.ringPlacement 0 15 2).wellFormed = false := by decide
theorem test_wellFormed_placement : (Instr.ringPlacement 0 15 1).wellFormed = true := by decide

/-! ## Codes -/

/-- 11.2: the check byte of CAPTURE READ with n = 8. -/
theorem test_checkByte : checkByte (headerBits 0x11 0x08 0x00) = 0x3D := by decide

/-- 11.2: one inverted bit of that header is inverted back. -/
theorem test_decodeHeader :
    decodeHeader (headerBits 0x11 0x0A 0x00) 0x3D = .corrected (headerBits 0x11 0x08 0x00) := by decide +kernel

/-- R163: the CRC of the characters "123456789". -/
theorem test_crc : crc [0x31, 0x32, 0x33, 0x34, 0x35, 0x36, 0x37, 0x38, 0x39] = 0x29B1 := by
  decide +kernel

/-! ## Small states -/

/-- The part after strap sampling, with four links, every channel OFF and nothing placed. -/
def base : State := attendAll { State.reset with phase := .running }

/-- The state a command leaves. -/
def after (i : Instr) (s : State) : State :=
  match exec i s with
  | .next t => t
  | .fault _ => s
  | .refused _ => s

/-- `s` with channel `c` in a state, and its enable setting as the state calls for. -/
def channelIn (st : ChannelState) (c : ChannelId) (s : State) : State :=
  { s with
    channels := upd s.channels c fun ch => { ch with state := st }
    settings :=
      { s.settings with
        channels := upd s.settings.channels c fun cs => { cs with enable := decide (st ≠ .off) } } }

/-- `s` with its channel `c` at a number of consecutive faults. -/
def faultsAt (n : Nat) (c : ChannelId) (s : State) : State := s.modChannel c fun ch => { ch with faults := n }

/-- `s` with view `v` subscribed to channel `c`, whose account is `a`. -/
def account (v : LinkId) (c : ChannelId) (a : Account) (s : State) : State :=
  attendAll (s.modView v fun w =>
    { w with
      settings := { w.settings with mask := w.settings.mask ||| BitVec.twoPow 8 c.val }
      accounts := put w.accounts c (some a) })

/-- `s` with the settings of view `v` changed. -/
def viewSettings (v : LinkId) (f : ViewSettings → ViewSettings) (s : State) : State :=
  attendAll (s.modView v fun w => { w with settings := f w.settings })

/-- `s` with an exchange in flight, from its command byte on. -/
def exchanging (c : ChannelId) (kind : ExchangeKind) (discard : Bool) (s : State) : State :=
  { s with
    bus :=
      { s.bus with
        exchange := some { channel := c, kind := kind, discard := discard, stage := .command, fillers := 0,
                           block := [] } } }

/-- `s` with flags set: the priority flags of some channels and the due flags of others. -/
def flags (priority due : Byte) (s : State) : State :=
  { s with
    polls := tab8 fun c =>
      { s.polls[c] with priority := priority.getLsbD c.val, due := due.getLsbD c.val } }

/-- `s` with the countdown of CH0 and that of a lease held by L0 at `d`. -/
def counting (d : Countdown) (s : State) : State :=
  { s with
    polls := upd s.polls 0 fun p => { p with countdown := d }
    lease := { holder := some 0, countdown := d } }

/-- `s` with the lease held by a link. -/
def leasedBy (l : LinkId) (s : State) : State := { s with lease := { holder := some l, countdown := .running 7 } }

/-- `s` with trigger `i` watching under these settings. -/
def watching (w : WatchStage) (level : Level) (ts : TriggerSettings) (i : TriggerId) (s : State) : State :=
  { s with
    triggers := upd s.triggers i fun g => { g with watch := w, stable := level }
    settings := { s.settings with triggers := put s.settings.triggers i ts } }

/-- `s` with a confirmed change of trigger `i` waiting to be taken. -/
def confirmed (i : TriggerId) (s : State) : State := s.modTrigger i fun g => { g with confirmOwed := true }

/-- `s` with a capture of one entry in flight at trigger `i`. -/
def capturing (stage : EntryStage) (c : ChannelId) (i : TriggerId) (s : State) : State :=
  s.modTrigger i fun g =>
    { g with
      capture := some { edge := .rising, overlap := false, timestamp := 7, entries := [{ channel := c, stage := stage }] } }

/-- `s` with view `v`'s ring placed, and its head, count and dropped count. -/
def ringAt (v : LinkId) (base length head count dropped : Nat) (s : State) : State :=
  attendAll
    { s with
      views := upd s.views v fun w => { w with settings := { w.settings with ringBase := base, ringLength := length } }
      rings := upd s.rings v fun g => { g with head := head, count := count, dropped := dropped } }

/-- A record of one entry. -/
def record : CaptureRecord :=
  { trigger := 0, edge := .rising, overlap := false, timestamp := 7,
    entries := [{ channel := 0, status := .current, along := 1, across := 2 }] }

/-- `s` with the same record in every slot. -/
def recorded (s : State) : State := { s with slots := Vector.replicate 128 (some record) }

/-- `s` at the end of GUARD on link `l`, with requests queued. -/
def turnOf (l : LinkId) (queue : List Request) (s : State) : State :=
  s.modLink l fun k => { k with owner := .am48, tx := .guard, queue := queue }

/-- `s` with link `l` sending a frame of this kind, with requests queued. -/
def sending (l : LinkId) (kind : ReplyKind) (queue : List Request) (s : State) : State :=
  s.modLink l fun k => { k with owner := .am48, tx := .sending (.composed kind []), queue := queue }

/-- `s` with link `l` at some byte of a frame: these bytes are still to send. -/
def sendingBytes (l : LinkId) (left : List Byte) (s : State) : State :=
  s.modLink l fun k => { k with owner := .am48, tx := .sending { kind := .turn, bytes := [0x8F, 0x41], left := left } }

/-- `s` with a setting write in the turn of link `l`, which holds the lease. -/
def writing (l : LinkId) (payload : List Byte) (s : State) : State :=
  turnOf l [.settingWrite payload] (leasedBy l s)

/-- The accepted write at the head of link `l`'s queue at a composition, with the state of that composition. -/
def headWrite (l : LinkId) (s : State) : Option (State × AcceptedWrite) :=
  (compositionState l s).bind fun s1 =>
    match s1.links[l].queue with
    | .settingWrite payload :: _ =>
      match checkWrite s1 l payload with
      | .ok w => some (s1, w)
      | .error _ => none
    | _ => none

theorem headWrite_of {l : LinkId} {s s1 : State} {w : AcceptedWrite} (h : writeAtHead l s s1 w) :
    headWrite l s = some (s1, w) := by
  obtain ⟨payload, rest, ⟨-, h1, h2⟩, h3⟩ := h
  unfold headWrite
  rw [h1, Option.bind_some, h2]
  simp only [h3]

/-- A property of the write at the head, if there is one. -/
theorem headWrite_all {l : LinkId} {s : State} {P : State → AcceptedWrite → Prop}
    (h : ∀ x ∈ headWrite l s, P x.1 x.2) (s1 : State) (w : AcceptedWrite) (hw : writeAtHead l s s1 w) : P s1 w :=
  h (s1, w) (headWrite_of hw)

/-- `s` with link `l`'s receiver in a state. -/
def receiving (l : LinkId) (r : Receiver) (s : State) : State := s.modLink l fun k => { k with receiver := r }

/-- A view in PULSE mode: the motion pending in CH0, the condition before, and the timer, whose tick is owed. -/
def pulsing (along : Int) (before : Bool) (timer : PulseTimer) (s : State) : State :=
  { account 0 0 { Account.created with along := along }
      (viewSettings 0 (fun w => { w with attentionMode := .pulse }) s) with
    attention := upd (attendAll s).attention 0 fun a =>
      { a with
        condition := before
        timer := timer
        tickOwed := true
        line := .output (if timer.active then .low else .high) } }

/-- CH0 ACTIVE and subscribed by V0. -/
def lit : State := account 0 0 Account.created (channelIn .active 0 base)

/-- A motion exchange of CH0 that has reported +36 and -2, with quality 180 (2.5). -/
def motionBytes : List Byte := [0xFF, 0x00, 0x00, 0x96, 0x80, 0x24, 0xFE, 0x0F, 0xB4, 0x7F]

/-- An exchange in which no sync byte comes. -/
def silence : List Byte := List.replicate 9 0xFF

/-- Bytes as a sensor drives them on SDI, most significant bit first. -/
def onSdi (bytes : List Byte) : List (Samples 8) := bytes.map msbFirst

/-! ## Each command, one step -/

theorem test_reset :
    (after .reset lit).channels[0] = Channel.reset ∧ (after .reset lit).bus.pointer = 7 ∧
      (after .reset lit).phase = .inReset := by decide +kernel

theorem test_resetRelease : (after .resetRelease State.reset).phase = .released := by decide +kernel

/-- R159, R106: four links with AUTOSTART. -/
theorem test_strapSampling_autostart :
    let t := after (.strapSampling 0b1000 0b1111) { State.reset with phase := .released }
    t.tickCount = 1 ∧ t.channels[3].state = .identify ∧ t.views[3].settings.ringBase = 12 ∧
      t.attention[2].line = .output .high ∧ t.views[2].settings.mask = 0xFF := by decide +kernel

/-- R159, R106: two links. -/
theorem test_strapSampling_twoLinks :
    let t := after (.strapSampling 0b0100 0b1101) { State.reset with phase := .released }
    t.channels[3].state = .off ∧ t.views[1].settings.ringBase = 8 ∧ t.views[1].settings.ringLength = 8 ∧
      t.views[2].settings.ringLength = 0 ∧ t.links[1].receiver = .awaitMark false := by decide +kernel

/-- R157: the counter wraps. -/
theorem test_tick_wraps :
    (after (.tick 0) { base with tickCount := 0xFFFFFFFF }).tickCount = 0 ∧
      (after (.tick 0) (counting (.running 10) base)).polls[0].countdown = .running 9 := by decide +kernel

/-- R91: the sample that meets filter + 1 confirms. -/
theorem test_tick_confirms :
    (after (.tick 0b0100) (watching .watching .low { TriggerSettings.reset with filter := 0 } 2 base)).triggers[2] =
      { Trigger.reset with watch := .watching, run := 1, confirmOwed := true } := by decide +kernel

theorem test_dueCountdownExpiry :
    (after (.dueCountdownExpiry 0) (counting .expiring base)).polls[0] =
      { Poll.reset with due := true, countdown := .stopped } := by decide +kernel

theorem test_leaseExpiry :
    (after .leaseExpiry (counting .expiring base)).lease = Lease.reset ∧
      (after .leaseExpiry (counting .expiring base)).views[0].leaseLost = true := by decide +kernel

/-- 4.12: tick 101 begins the pulse. -/
theorem test_pulseTimerTick_begins :
    let t := after (.pulseTimerTick 0) (pulsing 5 true .owed base)
    t.attention[0].timer = .pulsing ∧ t.attention[0].line = .output .low := by decide +kernel

/-- 4.12: tick 102 ends a pulse with another owed. -/
theorem test_pulseTimerTick_ends :
    let t := after (.pulseTimerTick 0) (pulsing 5 true .pulsingOwed base)
    t.attention[0].timer = .owed ∧ t.attention[0].line = .output .high := by decide +kernel

/-- 7.8: with head 12 and 4 records, C5 joins at slot 48. -/
theorem test_triggerEdgeQualified_instant :
    let s := confirmed 0 (watching .watching .low { TriggerSettings.reset with enable := true, mask := 1 } 0
      (ringAt 1 6 2 12 4 0 (viewSettings 1 (fun w => { w with triggerSelection := 1 }) lit)))
    (after (.triggerEdgeQualified 0) s).rings[1].count = 5 ∧
      ((after (.triggerEdgeQualified 0) s).slots[48]).map (·.entries.length) = some 1 := by decide +kernel

/-- R95: a REFRESH edge waits for its ACTIVE channel. -/
theorem test_triggerEdgeQualified_refresh :
    let s := confirmed 0 (watching .watching .low { TriggerSettings.reset with mode := .refresh, mask := 3 } 0 lit)
    (after (.triggerEdgeQualified 0) s).polls[0].priority = true ∧
      (after (.triggerEdgeQualified 0) s).triggers[0].capture = some
        { edge := .rising, overlap := false, timestamp := 0,
          entries := [{ channel := 0, stage := .awaitingGrant }, { channel := 1, stage := .filled .stale 0 0 }] } := by
  decide +kernel

/-- 2.6, G5: the streak has reached 4 and a channel is due. -/
theorem test_grant_due :
    let s := channelIn .active 0 { flags 0x40 0x11 base with bus := { Bus.reset with pointer := 5, streak := 4 } }
    (after .grant s).bus =
      { exchange := some { channel := 0, kind := .motion, discard := false, stage := .command, fillers := 0,
                           block := [] }
        pointer := 0
        streak := 0 } := by decide +kernel

/-- 2.6, G6: a priority grant with CH4 still due. -/
theorem test_grant_priority :
    let s := channelIn .active 6 { flags 0x40 0x10 base with bus := { Bus.reset with pointer := 0, streak := 0 } }
    (after .grant s).bus.pointer = 6 ∧ (after .grant s).bus.streak = 1 := by decide +kernel

/-- 2.5: the exchange of the worked sequence. -/
theorem test_exchangeCompletion_motion :
    let t := after (.exchangeCompletion (onSdi motionBytes)) (exchanging 0 .motion false lit)
    t.channels[0].movementAlong = 36 ∧ t.channels[0].movementAcross = -2 ∧
      t.views[0].accounts[0] = some { along := 36, across := -2, gap := 0, spill := 0, minQuality := 180 } ∧
      t.bus.exchange = none ∧ t.polls[0].countdown = .running 10 := by decide +kernel

/-- R9: the third identify failure in IDENTIFY. -/
theorem test_exchangeCompletion_identify :
    let t := after (.exchangeCompletion (onSdi silence)) (exchanging 0 .identify false (faultsAt 2 0 (channelIn .identify 0 base)))
    t.channels[0].state = .faulted ∧ t.channels[0].lastCause = .noResponse ∧
      t.polls[0].countdown = .running 2000 := by decide +kernel

/-- 9.11, F2: one bit of the header is inverted. -/
theorem test_frameHeaderReceived :
    let t := after (.frameHeaderReceived 1 0x3D) (receiving 1 (.header [0x11, 0x0A, 0x00]) base)
    t.links[1].queue = [.captureRead 8] ∧ t.links[1].corrected = 1 ∧ t.links[1].summary = 0x004 := by decide +kernel

/-- R140: a damaged payload. -/
theorem test_longFrameReceived_damaged :
    let s := receiving 1 (.footer 0x40 [0x31, 0x32, 0x33, 0x34, 0x35, 0x36, 0x37, 0x38, 0x39] (some 0x29) false) base
    (after (.longFrameReceived 1 0xB0) s).links[1].summary = 0x010 ∧
      (after (.longFrameReceived 1 0xB0) s).links[1].discarded = 1 := by decide +kernel

theorem test_longFrameReceived :
    let s := receiving 1 (.footer 0x43 [0x31, 0x32, 0x33, 0x34, 0x35, 0x36, 0x37, 0x38, 0x39] (some 0x29) false) base
    (after (.longFrameReceived 1 0xB1) s).links[1].accepted = 1 := by decide +kernel

theorem test_frameTimeout :
    (after (.frameTimeout 0) (receiving 0 (.header [0x10]) base)).links[0] =
      { Link.reset with summary := 0x002, discarded := 1 } := by decide +kernel

theorem test_framing :
    (after (.framing 0) base).links[0] =
      { Link.reset with receiver := .discard, summary := 0x001, discarded := 1 } := by decide +kernel

theorem test_discardEnd : (after (.discardEnd 0) (receiving 0 .discard base)).links[0].receiver = .idle := by
  decide +kernel

theorem test_contention : (after (.contention 0) (turnOf 0 [] base)).links[0].summary = 0x200 := by decide +kernel

/-- 9.11: a break during T2. -/
theorem test_lineBreak :
    let s := (sending 1 .captureReport [.linkStatus] (ringAt 1 6 2 0 1 0 base)).modRing 1 fun g =>
      { g with report := some { records := 1, dropped := 0 } }
    let t := after (.lineBreak ⟨1, .alone⟩) s
    t.links[1].queue = [] ∧ t.links[1].summary = 0x400 ∧ t.links[1].breaks = 1 ∧ t.links[1].owner = .client ∧
      t.rings[1].count = 1 ∧ t.rings[1].report = none := by decide +kernel

/-- R119, R148: the same break taken just after the delivery: the record is removed, the request stays unexecuted. -/
theorem test_lineBreak_afterDelivery :
    let s := (sending 1 .captureReport [.viewReset] (ringAt 1 6 2 0 2 3 base)).modRing 1 fun g =>
      { g with report := some { records := 1, dropped := 1 } }
    let t := after (.lineBreak ⟨1, .afterDelivery⟩) s
    t.links[1].queue = [] ∧ t.links[1].tx = .idle ∧ t.links[1].summary = 0x400 ∧ t.links[1].owner = .client ∧
      t.rings[1] = { s.rings[1] with head := 1, count := 1, dropped := 2, report := none } := by decide +kernel

/-- R125: a break on the holder's link. -/
theorem test_lineBreak_holder :
    (after (.lineBreak ⟨0, .alone⟩) (leasedBy 0 base)).lease = Lease.reset ∧
      (after (.lineBreak ⟨0, .alone⟩) (leasedBy 0 base)).views[0].leaseLost = true := by decide +kernel

theorem test_turn :
    (after (.turn 0 0 0) base).links[0].owner = .am48 ∧ (after (.turn 0 0 0) base).links[0].tx = .guard := by
  decide +kernel

/-- R122: a frame of the holder renews the lease. -/
theorem test_noop :
    (after (.noop 0 1 2) (leasedBy 0 base)).lease = { holder := some 0, countdown := .running 5000 } := by
  decide +kernel

theorem test_fill : (after (.fill 3 [1, 2, 3]) base).links[3] = { Link.reset with accepted := 1 } := by decide +kernel

theorem test_guardEnd_empty :
    (after (.guardEnd 0) (turnOf 0 [] base)).links[0].tx = .sending (shortReply .turn 0 0) := by decide +kernel

/-- 9.11, T4: the error report of HEADER_CORRECTED and PAYLOAD_CRC. -/
theorem test_guardEnd_errors :
    let s := (turnOf 0 [] base).modLink 0 fun k => { k with summary := 0x014 }
    (after (.guardEnd 0) s).links[0].tx = .sending (shortReply .errorReport 0x00 0x14) ∧
      (after (.guardEnd 0) s).links[0].summary = 0 := by decide +kernel

/-- 5.8: the delivery of the first read. -/
theorem test_replyDelivery_motion :
    let s := (sending 2 .motionReport []
        (account 2 4 { along := 320, across := -5, gap := 0, spill := 0, minQuality := 170 } base)).modView 2 fun v =>
      { v with report := some [{ channel := 4, along := 127, across := -5, gap := 0, spill := 0, afterMin := 170 }] }
    (after (.replyDelivery 2) s).views[2].accounts[4] =
      some { along := 193, across := 0, gap := 0, spill := 0, minQuality := 170 } := by decide +kernel

/-- 7.8: the delivery of five records and three drops. -/
theorem test_replyDelivery_capture :
    let s := (sending 1 .captureReport [] (ringAt 1 6 2 12 16 5 (recorded base))).modRing 1 fun g =>
      { g with report := some { records := 5, dropped := 3 } }
    (after (.replyDelivery 1) s).rings[1] = { head := 1, count := 11, dropped := 2, report := none } ∧
      (after (.replyDelivery 1) s).slots[60] = none ∧ (after (.replyDelivery 1) s).slots[48] = none ∧
      (after (.replyDelivery 1) s).slots[49] = some record := by decide +kernel

/-- 5.8: a width-8 report of +300 and -5. -/
theorem test_motionRead :
    let s := turnOf 2 [.motionRead 0x10 0]
      (account 2 4 { along := 300, across := -5, gap := 0, spill := 0, minQuality := 200 }
        (viewSettings 2 (fun w => { w with width := .w8 }) (channelIn .active 4 base)))
    (after (.motionRead 2 0x10 0) s).links[2].tx =
        .sending (longReply .motionReport [1, 0, 4, 0x20, 0, 200, 0x7F, 0xFB]) ∧
      (after (.motionRead 2 0x10 0) s).views[2].report =
        some [{ channel := 4, along := 127, across := -5, gap := 0, spill := 0, afterMin := 255 }] := by decide +kernel

/-- 7.8: five of sixteen records, with three drops. -/
theorem test_captureRead :
    let s := turnOf 1 [.captureRead 5] (ringAt 1 6 2 12 16 3 (recorded base))
    (after (.captureRead 1 5) s).rings[1].report = some { records := 5, dropped := 3 } ∧
      (match (after (.captureRead 1 5) s).links[1].tx with
        | .sending f => decide (f.bytes.length = 93 ∧ (f.bytes.drop 4).take 2 = [3, 0x85])
        | .idle => false
        | .guard => false) = true := by decide +kernel

/-- 9.11, T3: the counters and holder that a LINK STATUS DATA carries. -/
theorem test_linkStatus :
    let s := (turnOf 1 [.linkStatus] (leasedBy 0 base)).modLink 1 fun k =>
      { k with accepted := 24, corrected := 3, discarded := 2, breaks := 1 }
    (after (.linkStatus 1) s).links[1].tx =
      .sending (longReply .linkStatusData [0, 24, 0, 3, 0, 2, 1, 0, 0]) := by decide +kernel

theorem test_viewReset :
    let s := turnOf 0 [.viewReset] (account 0 0 { Account.created with along := 9, gap := 2 } (ringAt 0 0 4 3 5 6 base))
    (after (.viewReset 0) s).views[0].accounts[0] = some Account.created ∧
      (after (.viewReset 0) s).rings[0] = Ring.reset := by decide +kernel

theorem test_leaseAcquire :
    (after (.leaseAcquire 0) (turnOf 0 [.leaseAcquire] base)).lease =
      { holder := some 0, countdown := .running 5000 } := by decide +kernel

theorem test_leaseAcquire_held :
    (after (.leaseAcquire 1) (turnOf 1 [.leaseAcquire] (leasedBy 0 base))).links[1].tx =
      .sending (shortReply .result 0x20 1) := by decide +kernel

theorem test_leaseRelease :
    (after (.leaseRelease 0) (turnOf 0 [.leaseRelease] (leasedBy 0 base))).lease = Lease.reset := by decide +kernel

/-- R127: the identity registers. -/
theorem test_settingRead :
    (after (.settingRead 0 [0, 0, 3]) (turnOf 0 [.settingRead [0, 0, 3]] base)).links[0].tx =
      .sending (longReply .settingData [0x0A, 0x48, 0x00, 0x03, 0xFF, 0xFC]) := by decide +kernel

/-- 7.9: L2's claim of base 6, length 6 overlaps V1's ring. -/
theorem test_settingWrite_overlap :
    let w : List Byte := [3, 8, 0, 6, 0, 6]
    (after (.settingWrite 2 w) (turnOf 2 [.settingWrite w] (ringAt 1 4 4 0 0 0 base))).links[2].tx =
      .sending (shortReply .result 0x41 7) := by decide +kernel

/-- 8.3: a shared write without the lease. -/
theorem test_settingWrite_noLease :
    let w : List Byte := [1, 0, 0, 1]
    (after (.settingWrite 2 w) (turnOf 2 [.settingWrite w] base)).links[2].tx =
      .sending (shortReply .result 0x41 3) := by decide +kernel

/-- R15: the absolute position is the given value. -/
theorem test_preset :
    let w : List Byte := [0, 3, 0, 0, 0, 100, 0xFF, 0xFF, 0xFF, 0xFE]
    let s := turnOf 0 [.preset w] (leasedBy 0 ((channelIn .active 0 base).modChannel 0 fun ch =>
      { ch with movementAlong := 36 }))
    (after (.preset 0 w) s).channels[0].offsetAlong = 64 ∧ (after (.preset 0 w) s).channels[0].absoluteAcross = -2 := by
  decide +kernel

theorem test_channelEnable :
    let w : List Byte := [1, 0xA0, 0, 1]
    (after (.channelEnable 0 5) (turnOf 0 [.settingWrite w] (leasedBy 0 base))).channels[5].state = .identify := by
  decide +kernel

theorem test_channelDisable :
    let w : List Byte := [1, 0, 0, 0]
    let t := after (.channelDisable 0 0) (turnOf 0 [.settingWrite w] (leasedBy 0 (exchanging 0 .motion false lit)))
    t.channels[0].state = .off ∧ t.bus.exchange.map (·.discard) = some true := by decide +kernel

theorem test_forcedTierSet :
    let w : List Byte := [1, 9, 0, 4]
    (after (.forcedTierSet 0 0 .t3) (turnOf 0 [.settingWrite w] (leasedBy 0 lit))).polls[0].tier = .t3 := by
  decide +kernel

theorem test_forcedTierRelease :
    let w : List Byte := [1, 9, 0, 0]
    let s := { lit with
      polls := upd lit.polls 0 fun p => { p with tier := .t2, idleCount := 9 }
      settings := { lit.settings with
        channels := upd lit.settings.channels 0 fun c => { c with forcedTier := some .t2 } } }
    let t := after (.forcedTierRelease 0 0) (turnOf 0 [.settingWrite w] (leasedBy 0 s))
    t.polls[0].tier = .t2 ∧ t.polls[0].idleCount = 0 := by decide +kernel

theorem test_triggerEnable :
    let w : List Byte := [2, 0x10, 0, 1, 0, 2, 0, 0, 0, 1, 0, 0x26]
    let t := after (.triggerEnable 0 1) (turnOf 0 [.settingWrite w] (leasedBy 0 base))
    t.triggers[1].watch = .starting ∧
      t.settings.triggers[1] = { enable := true, edge := .both, filter := 0, mode := .refresh, mask := 0x26 } := by
  decide +kernel

theorem test_triggerDisable :
    let w : List Byte := [2, 0x10, 0, 0]
    let s := watching .watching .high { TriggerSettings.reset with enable := true, mask := 1 } 1 base
    (after (.triggerDisable 0 1) (turnOf 0 [.settingWrite w] (leasedBy 0 s))).triggers[1].watch = .off := by
  decide +kernel

theorem test_subscriptionChange :
    let w : List Byte := [3, 0, 0, 0x22]
    let t := after (.subscriptionChange 0 0x22) (turnOf 0 [.settingWrite w] lit)
    t.views[0].accounts[1] = some Account.created ∧ t.views[0].accounts[0] = none := by decide +kernel

/-- 7.9: L1 gives up half of its ring. -/
theorem test_ringPlacement :
    let w : List Byte := [3, 9, 0, 2]
    let t := after (.ringPlacement 1 4 2) (turnOf 1 [.settingWrite w] (ringAt 1 4 4 3 2 1 base))
    t.views[1].settings.ringLength = 2 ∧ t.rings[1] = Ring.reset := by decide +kernel

theorem test_attentionSettingsWrite :
    let w : List Byte := [3, 5, 0, 1, 0, 1]
    let t := after (.attentionSettingsWrite 0 .level .activeHigh 1)
      (turnOf 0 [.settingWrite w] (account 0 0 { Account.created with along := 1 } base))
    t.attention[0].line = .output .high := by decide +kernel

theorem test_receivedByte :
    (after (.receivedByte 0 (character 0x10)) base).links[0].receiver = .header [0x10] ∧
      (after (.receivedByte 0 (character 0x07)) (receiving 0 (.payload 0x40 3 [1, 2] false) base)).links[0].receiver =
        .footer 0x40 [1, 2, 7] none false := by decide +kernel

theorem test_returnToMark :
    (after (.returnToMark 0) (receiving 0 (.awaitMark true) base)).links[0].receiver = .idle := by decide +kernel

/-! ## Levels on the lines -/

/-- R137: 41h is sent as a start bit, 1 0 0 0 0 0 1 0 in time, and a stop bit. -/
theorem test_character : character 0x41 = 0b1_0100_0001_0 := by decide

/-- R137, R151: the AM48 reads its own character back, and has one byte fewer to send. -/
theorem test_receivedByte_own :
    let t := after (.receivedByte 0 (character 0x8F)) (sendingBytes 0 [0x8F, 0x41] base)
    t.links[0].summary = 0 ∧ t.links[0].tx = .sending { kind := .turn, bytes := [0x8F, 0x41], left := [0x41] } := by
  decide +kernel

/-- R151: a bit that the AM48 leaves at mark is read at space. -/
theorem test_receivedByte_corrupted :
    let t := after (.receivedByte 0 (character 0x8E)) (sendingBytes 0 [0x8F, 0x41] base)
    t.links[0].summary = 0x200 ∧ t.links[0].tx = .sending { kind := .turn, bytes := [0x8F, 0x41], left := [0x41] } := by
  decide +kernel

/-- R137: a space that does not last to the middle of its bit is no start bit. -/
theorem test_receivedByte_shortSpace :
    after (.receivedByte 0 allMark) (receiving 0 (.header [1]) base) = receiving 0 (.header [1]) base := by
  decide +kernel

/-- 11.6: C5h on SDO, its most significant bit first. -/
theorem test_sdoLevels : sdoLevels (exchanging 0 .motion false lit).bus = 0b10100011 := by decide +kernel

/-- R21: the first level on SDI is the most significant bit. -/
theorem test_bytesOnSdi : bytesOnSdi [0b01101001, 0b00000001] = [0b10010110, 0b10000000] := by decide

/-! ## The hypotheses of the statements are met

One theorem for each clause of each statement that has hypotheses. -/

theorem test_met_StepRunsTheFrontCommand : base.pending = [] := by decide +kernel

theorem test_met_EventsThatCannotTakePlace_phase :
    State.reset.phase ≠ .running ∧ Instr.grant ≠ .reset ∧ Instr.grant ≠ .resetRelease ∧
      ∀ atn ld, Instr.grant ≠ .strapSampling atn ld := ⟨by decide, by decide, by decide, fun _ _ h => by cases h⟩

theorem test_met_EventsThatCannotTakePlace_release : base.phase ≠ .inReset ∧ base.phase ≠ .released := by
  decide +kernel

theorem test_met_EventsThatCannotTakePlace_link :
    linkOf (.framing 2) = some 2 ∧ linkEnabled { base with straps := { base.straps with twoLinks := true } } 2 = false := by
  decide +kernel

theorem test_met_EventsThatCannotTakePlace_owed :
    base.polls[7].countdown ≠ .expiring ∧ base.lease.countdown ≠ .expiring ∧ base.attention[3].tickOwed = false ∧
      base.triggers[3].confirmOwed = false := by decide +kernel

theorem test_met_EventsThatCannotTakePlace_grant_busy : (exchanging 0 .motion false lit).bus.exchange.isSome = true := by
  decide +kernel

theorem test_met_EventsThatCannotTakePlace_grant_empty :
    ∀ c : ChannelId, base.polls[c].priority = false ∧ base.polls[c].due = false := by decide +kernel

theorem test_met_EventsThatCannotTakePlace_bus : base.bus.exchange = none := by decide +kernel

theorem test_met_EventsThatCannotTakePlace_inFlight :
    (exchanging 0 .motion false lit).phase = .running ∧ ∃ e e',
      (exchanging 0 .motion false lit).bus.exchange = some e ∧
      clockBytes (exchanging 0 .motion false lit).settings.channels[e.channel].expectedId e (bytesOnSdi (onSdi [0])) = .inFlight e' :=
  ⟨by decide +kernel, _, _, rfl, rfl⟩

theorem test_met_EventsThatCannotTakePlace_line :
    base.links[0].tx ≠ .guard ∧ base.links[0].tx = .idle ∧ (turnOf 0 [] base).links[0].tx = .guard ∧
      base.links[0].owner = .client ∧ (receiving 0 (.awaitMark true) base).links[0].receiver = .awaitMark true := by
  decide +kernel

/-- A receiver at another byte of a frame, and a link that the AM48 owns. -/
theorem test_met_EventsThatCannotTakePlace_receiver :
    (turnOf 0 [] base).links[0].owner = .am48 ∧ base.links[0].receiver = .idle ∧
      (receiving 0 .discard base).links[0].receiver = .discard ∧
      (∀ x y z, (receiving 0 (.header [1, 2]) base).links[0].receiver ≠ .header [x, y, z]) ∧
      (∀ kind payload hi skip,
        (receiving 0 (.footer 0x40 [1] none false) base).links[0].receiver ≠ .footer kind payload (some hi) skip) ∧
      (∃ taken, (receiving 0 (.awaitMark false) base).links[0].receiver = .awaitMark taken) ∧
      (receiving 0 (.header [1]) base).links[0].receiver ≠ .discard ∧
      ∀ taken, (receiving 0 .discard base).links[0].receiver ≠ .awaitMark taken := by
  refine ⟨by decide +kernel, by decide +kernel, by decide +kernel, fun x y z h => ?_, fun _ _ _ _ h => ?_,
    ⟨false, rfl⟩, by decide +kernel, fun _ h => ?_⟩ <;> cases h

/-- No composition, and a write of the lease timeout at the head, for each command that names what a write does. -/
theorem test_met_EventsThatCannotTakePlace_write :
    headWrite 0 base = none ∧ (headWrite 0 (writing 0 [0, 0x0A, 0, 255] base)).isSome = true ∧
      ∀ s ∈ [base, writing 0 [0, 0x0A, 0, 255] base], ∀ s1 w, writeAtHead 0 s s1 w →
        ¬(s1.settings.channels[(1 : ChannelId)].enable = false ∧
          w.left.shared.channels[(1 : ChannelId)].enable = true) ∧
        ¬(s1.settings.channels[(1 : ChannelId)].enable = true ∧
          w.left.shared.channels[(1 : ChannelId)].enable = false) ∧
        ¬(Setting.channel 1 .forcedTier ∈ w.run ∧ w.left.shared.channels[(1 : ChannelId)].forcedTier = some .t1) ∧
        ¬(s1.settings.channels[(1 : ChannelId)].forcedTier ≠ none ∧
          w.left.shared.channels[(1 : ChannelId)].forcedTier = none) ∧
        ¬(s1.settings.triggers[(2 : TriggerId)].enable = false ∧
          w.left.shared.triggers[(2 : TriggerId)].enable = true) ∧
        ¬(s1.settings.triggers[(2 : TriggerId)].enable = true ∧
          w.left.shared.triggers[(2 : TriggerId)].enable = false) ∧
        ¬(s1.views[(0 : LinkId)].settings.mask ≠ 3 ∧ w.left.own.mask = 3) ∧
        ¬((Setting.own .ringBase ∈ w.run ∨ Setting.own .ringLength ∈ w.run) ∧ w.left.own.ringBase = 0 ∧
          w.left.own.ringLength = 2) ∧
        ¬((Setting.own .attentionMode ∈ w.run ∨ Setting.own .polarity ∈ w.run ∨ Setting.own .sources ∈ w.run) ∧
          w.left.own.attentionMode = .level ∧ w.left.own.polarity = .activeLow ∧ w.left.own.sources = 1) := by
  refine ⟨by decide +kernel, by decide +kernel, fun s hs => headWrite_all ?_⟩
  simp only [List.mem_cons, List.not_mem_nil, or_false] at hs
  obtain rfl | rfl := hs <;> decide +kernel

/-- No composition, and a composition of another request. -/
theorem test_met_EventsThatCannotTakePlace_request :
    (∀ s1 rest, compositionState 0 base = some s1 → s1.links[0].queue ≠ .linkStatus :: rest) ∧
      ∀ s1 rest, compositionState 0 (turnOf 0 [.viewReset] base) = some s1 →
        s1.links[0].queue ≠ .linkStatus :: rest := by
  refine ⟨fun s1 rest h => ?_, fun s1 rest h => ?_⟩
  · cases h
  · cases h
    intro hq
    injection hq with h1 _
    cases h1

theorem test_met_ResetReturnsEveryBlock : State.reset.phase = .inReset := by decide +kernel

theorem test_met_StrapSamplingGivesFirstValues :
    (0b0000 : BitVec 4).getLsbD 2 = false ∧ (0b0100 : BitVec 4).getLsbD 2 = true ∧ (1 : LinkId).val < 2 ∧
      2 ≤ (2 : LinkId).val := by decide

/-- Countdowns at the edges of each clause: stopped, 2, and 1. -/
theorem test_met_TickCountsEveryCountdownDown_running :
    base.phase = .running ∧ nothingOwed base ∧ base.polls[0].countdown = .stopped ∧ base.lease.countdown = .stopped ∧
      nothingOwed (counting (.running 2) base) ∧ (counting (.running 2) base).polls[0].countdown = .running (0 + 2) ∧
      (counting (.running 2) base).lease.countdown = .running (0 + 2) ∧ nothingOwed (counting (.running 1) base) ∧
      (counting (.running 1) base).polls[0].countdown = .running 1 ∧
      (counting (.running 1) base).lease.countdown = .running 1 := by
  unfold nothingOwed
  decide +kernel

theorem test_met_TickCountsEveryCountdownDown_owed :
    (counting .expiring base).phase = .running ∧ (counting .expiring base).polls[0].countdown = .expiring ∧
      (counting .expiring base).lease.countdown = .expiring ∧ (counting .expiring base).lease.holder = some 0 := by
  decide +kernel

theorem test_met_TickSamplesEveryTrigger :
    base.phase = .running ∧ nothingOwed base ∧ base.triggers[0].watch = .off ∧
      nothingOwed (watching .starting .low TriggerSettings.reset 0 base) ∧
      (watching .starting .low TriggerSettings.reset 0 base).triggers[0].watch = .starting ∧
      nothingOwed (watching .watching .low TriggerSettings.reset 0 base) ∧
      (watching .watching .low TriggerSettings.reset 0 base).triggers[0].watch = .watching ∧
      levelOf ((0b0000 : BitVec 4).getLsbD 0) =
        (watching .watching .low TriggerSettings.reset 0 base).triggers[0].stable ∧
      levelOf ((0b0001 : BitVec 4).getLsbD 0) ≠
        (watching .watching .low TriggerSettings.reset 0 base).triggers[0].stable := by
  unfold nothingOwed
  decide +kernel

theorem test_met_ExpiriesTakeEffect :
    (counting .expiring base).phase = .running ∧ (counting .expiring base).polls[0].countdown = .expiring ∧
      (counting .expiring base).lease.holder = some 0 ∧ (counting .expiring base).lease.countdown = .expiring := by
  decide +kernel

/-- In PULSE mode, the four timers at a rise. -/
theorem test_met_AttentionFollowsTheCondition_rise :
    ∀ timer ∈ [PulseTimer.quiet, .owed, .pulsing, .pulsingOwed],
      (pulsing 5 false timer base).views[0].settings.attentionMode = .pulse ∧
      (pulsing 5 false timer base).attention[0].condition = false ∧
      attentionCondition (pulsing 5 false timer base) 0 = true ∧
      (pulsing 5 false timer base).attention[0].timer = timer ∧ linkEnabled (pulsing 5 false timer base) 0 = true := by
  decide +kernel

theorem test_met_AttentionFollowsTheCondition_modes :
    (pulsing 5 true .quiet base).attention[0].condition = true ∧
      attentionCondition (pulsing 0 false .quiet base) 0 = false ∧
      base.views[0].settings.attentionMode ≠ .pulse ∧ base.views[0].settings.attentionMode = .off ∧
      (viewSettings 0 (fun w => { w with attentionMode := .level }) base).views[0].settings.attentionMode = .level ∧
      linkEnabled base 0 = true ∧
      linkEnabled { base with straps := { base.straps with twoLinks := true } } 2 = false := by decide +kernel

/-- The four timers at a tick that is owed. -/
theorem test_met_AttentionFollowsTheCondition_tick :
    ∀ timer ∈ [PulseTimer.quiet, .owed, .pulsing, .pulsingOwed],
      (pulsing 5 true timer base).phase = .running ∧ attentionCurrent (pulsing 5 true timer base) ∧
      (pulsing 5 true timer base).attention[0].tickOwed = true ∧
      (pulsing 5 true timer base).views[0].settings.attentionMode = .pulse ∧
      (pulsing 5 true timer base).attention[0].timer = timer ∧ linkEnabled (pulsing 5 true timer base) 0 = true := by
  unfold attentionCurrent
  decide +kernel

theorem test_met_ConfirmedChangesThatOpenNoCapture_noEdge :
    let s := confirmed 0 (watching .watching .low { TriggerSettings.reset with edge := .falling } 0 base)
    s.phase = .running ∧ s.triggers[0].confirmOwed = true ∧
      qualifies s.settings.triggers[0].edge (changeFrom s.triggers[0].stable) = false := by decide +kernel

theorem test_met_ConfirmedChangesThatOpenNoCapture_inFlight :
    let s := confirmed 0 (capturing .awaitingGrant 0 0 (watching .watching .low TriggerSettings.reset 0 base))
    s.phase = .running ∧ s.triggers[0].confirmOwed = true ∧ attentionCurrent s ∧
      qualifies s.settings.triggers[0].edge (changeFrom s.triggers[0].stable) = true ∧
      s.triggers[0].capture.isSome = true := by
  unfold attentionCurrent
  decide +kernel

/-- A view that selects the trigger with room, one with a full ring, and one that does not select it. -/
theorem test_met_EdgeThatFillsEveryEntryMakesARecord_instant :
    let s := confirmed 0 (watching .watching .low { TriggerSettings.reset with mask := 1 } 0
      (ringAt 2 0 1 0 8 0 (ringAt 1 6 2 12 15 0
        (viewSettings 1 (fun w => { w with triggerSelection := 1 })
          (viewSettings 2 (fun w => { w with triggerSelection := 1 }) lit)))))
    s.phase = .running ∧ ringsDisjoint s ∧ s.triggers[0].confirmOwed = true ∧
      qualifies s.settings.triggers[0].edge (changeFrom s.triggers[0].stable) = true ∧
      s.triggers[0].capture = none ∧ s.settings.triggers[0].mode = .instant ∧
      s.views[0].settings.triggerSelection.getLsbD 0 = false ∧
      s.views[1].settings.triggerSelection.getLsbD 0 = true ∧
      s.rings[1].count < 8 * s.views[1].settings.ringLength ∧
      s.views[2].settings.triggerSelection.getLsbD 0 = true ∧
      8 * s.views[2].settings.ringLength ≤ s.rings[2].count := by
  unfold ringsDisjoint
  decide +kernel

theorem test_met_EdgeThatFillsEveryEntryMakesARecord_stale :
    let s := confirmed 0 (watching .watching .low { TriggerSettings.reset with mode := .refresh, mask := 2 } 0 lit)
    s.phase = .running ∧ ringsDisjoint s ∧ s.triggers[0].confirmOwed = true ∧
      qualifies s.settings.triggers[0].edge (changeFrom s.triggers[0].stable) = true ∧
      s.triggers[0].capture = none ∧
      ∀ c : ChannelId, s.settings.triggers[0].mask.getLsbD c.val = true → s.channels[c].state ≠ .active := by
  unfold ringsDisjoint
  decide +kernel

theorem test_met_RefreshEdgeOpensACapture :
    let s := confirmed 0 (watching .watching .low { TriggerSettings.reset with mode := .refresh, mask := 3 } 0 lit)
    s.phase = .running ∧ attentionCurrent s ∧ s.triggers[0].confirmOwed = true ∧
      qualifies s.settings.triggers[0].edge (changeFrom s.triggers[0].stable) = true ∧
      s.triggers[0].capture = none ∧ s.settings.triggers[0].mode = .refresh ∧
      ∃ c : ChannelId, s.settings.triggers[0].mask.getLsbD c.val = true ∧ s.channels[c].state = .active := by
  unfold attentionCurrent
  decide +kernel

/-- The four rows of R34, and no flag at all. -/
theorem test_met_ArbiterChoosesByR34AndR35 :
    (∀ c : ChannelId, base.polls[c].priority = false ∧ base.polls[c].due = false) ∧
      (∃ c : ChannelId, (flags 0x40 0x11 base).polls[c].priority = true) ∧ (flags 0x40 0x11 base).bus.streak < 4 ∧
      (∀ c : ChannelId, (flags 0x40 0 base).polls[c].due = false) ∧
      (∃ c : ChannelId, (flags 0x40 0x11 base).polls[c].due = true) ∧
      4 ≤ ({ flags 0x40 0x11 base with bus := { Bus.reset with streak := 4 } } : State).bus.streak ∧
      ∀ c : ChannelId, (flags 0 0x11 base).polls[c].priority = false := by decide +kernel

theorem test_met_GrantStartsAnExchange :
    let s := channelIn .active 4 (flags 0 0x10 base)
    s.phase = .running ∧ s.bus.exchange = none ∧ arbiterChoice s = some 4 ∧ s.channels[4].state ≠ .off := by
  decide +kernel

/-- A priority grant with another channel due, below 4 and at 3 (the last that R34 lets happen), one with none due,
and a due grant. -/
theorem test_met_StreakCountsPriorityGrants :
    let s := channelIn .active 6 { flags 0x40 0x10 base with bus := { Bus.reset with streak := 3 } }
    let u := channelIn .active 6 (flags 0x40 0x40 base)
    let w := channelIn .active 4 (flags 0 0x10 base)
    (s.phase = .running ∧ s.bus.exchange = none ∧ arbiterChoice s = some 6 ∧ s.channels[6].state ≠ .off ∧
      usesPriority s = true ∧ s.polls[4].due = true) ∧
    (u.phase = .running ∧ u.bus.exchange = none ∧ arbiterChoice u = some 6 ∧ u.channels[6].state ≠ .off ∧
      usesPriority u = true ∧ ∀ d : ChannelId, d ≠ 6 → u.polls[d].due = false) ∧
    (w.phase = .running ∧ w.bus.exchange = none ∧ arbiterChoice w = some 4 ∧ w.channels[4].state ≠ .off ∧
      usesPriority w = false) ∧ Instr.leaseExpiry ≠ .grant ∧ Instr.leaseExpiry ≠ .reset := by decide +kernel

/-- Eight fillers, seven, and none. -/
theorem test_met_OutcomesOnTheWire :
    Config.syncByte ∉ List.replicate 8 (0xFF : Byte) ∧ (List.replicate 8 (0xFF : Byte)).length = 8 ∧
      Config.syncByte ∉ List.replicate 7 (0xFF : Byte) ∧ (List.replicate 7 (0xFF : Byte)).length ≤ 7 ∧
      Config.syncByte ∉ ([] : List Byte) ∧ ([] : List Byte).length ≤ 7 := by decide

theorem test_met_MotionSuccessIsCounted :
    let s := exchanging 0 .motion false lit
    s.phase = .running ∧ s.channels[0].state = .active ∧ ∃ e e', s.bus.exchange = some e ∧ e.discard = false ∧
      e.kind = .motion ∧ e.channel = 0 ∧
      clockBytes s.settings.channels[e.channel].expectedId e (bytesOnSdi (onSdi motionBytes)) = .completed e' (.moved 36 (-2) 180) :=
  ⟨by decide +kernel, by decide +kernel, _, _, rfl, rfl, rfl, rfl, rfl⟩

/-- `lit` with CH0 in a tier, at an idle count and under a forced tier, and its motion exchange in flight. -/
def polled (tier : Tier) (idle : Nat) (forced : Option Tier) : State :=
  exchanging 0 .motion false
    { lit with
      polls := upd lit.polls 0 fun p => { p with tier := tier, idleCount := idle }
      settings := { lit.settings with
        channels := upd lit.settings.channels 0 fun c => { c with forcedTier := forced } } }

/-- A motion block without motion. -/
def stillBytes : List Byte := [0xFF, 0x96, 0x00, 0x24, 0xFE, 0x0F, 0xB4, 0xFF]

/-- No motion: a forced tier, T3, and in T0 the count that reaches D0 and the one below it. -/
theorem test_met_MotionSuccessMovesTheTier :
    (∀ s ∈ [polled .t1 0 (some .t1), polled .t3 255 none, polled .t0 63 none, polled .t0 62 none],
      s.phase = .running ∧ s.channels[0].state = .active ∧
      s.bus.exchange = some { channel := 0, kind := .motion, discard := false, stage := .command, fillers := 0,
                              block := [] }) ∧
    (∃ e', clockBytes 0 { channel := 0, kind := .motion, discard := false, stage := .command, fillers := 0, block := [] }
      (bytesOnSdi (onSdi stillBytes)) = .completed e' (.moved 0 0 180)) ∧
    (polled .t1 0 (some .t1)).settings.channels[0].forcedTier ≠ none ∧ (polled .t3 255 none).polls[0].tier = .t3 ∧
    (polled .t0 63 none).settings.channels[0].forcedTier = none ∧
    downshiftCount (polled .t0 63 none).settings.channels[0] (polled .t0 63 none).polls[0].tier = some 64 ∧
    64 ≤ satInc 255 (polled .t0 63 none).polls[0].idleCount ∧
    satInc 255 (polled .t0 62 none).polls[0].idleCount < 64 :=
  ⟨by decide +kernel, ⟨_, rfl⟩, by decide +kernel, by decide +kernel, by decide +kernel, by decide +kernel,
    by decide +kernel, by decide +kernel⟩

/-- The third fault and the second. -/
theorem test_met_MotionFailureCountsAGap :
    ∀ n ∈ [1, 2],
      (faultsAt n 0 (exchanging 0 .motion false lit)).phase = .running ∧
      (faultsAt n 0 (exchanging 0 .motion false lit)).channels[0].state = .active ∧
      (faultsAt n 0 (exchanging 0 .motion false lit)).channels[0].faults = n ∧
      (faultsAt n 0 (exchanging 0 .motion false lit)).bus.exchange =
        some { channel := 0, kind := .motion, discard := false, stage := .command, fillers := 0, block := [] } ∧
      (match clockBytes 0 { channel := 0, kind := .motion, discard := false, stage := .command, fillers := 0,
                            block := [] } (bytesOnSdi (onSdi silence)) with
        | .completed _ o => decide (o = .failed .noResponse)
        | .inFlight _ => false) = true := by decide +kernel

/-- R20: the bus idle, the command bytes of both kinds, and a later byte; levels on SDI. -/
theorem test_met_OutcomesOnTheWire_lines :
    base.bus.exchange = none ∧
      (∀ kind : ExchangeKind, ∃ e, (exchanging 2 kind false base).bus.exchange = some e ∧ e.stage = .command ∧
        e.kind = kind) ∧
      (∃ e, (after (.exchangeCompletion (onSdi [0])) (exchanging 2 .motion false base)).bus.exchange = some e ∧
        e.stage ≠ .command) ∧
      (onSdi [1, 2])[1]? = some 0x40 ∧ (bytesOnSdi (onSdi [1, 2]))[1]? = some 2 :=
  ⟨by decide +kernel, fun _ => ⟨_, rfl, rfl, rfl⟩, ⟨_, rfl, by decide⟩, by decide, by decide⟩

/-- A motion success that finds an entry awaiting its result, and a third failure that finds one awaiting a grant. -/
theorem test_met_CompletionsFillTheirEntries :
    let placed := ringAt 1 6 2 12 15 0 (viewSettings 1 (fun w => { w with triggerSelection := 2 }) lit)
    let s := capturing .awaitingResult 0 1 (exchanging 0 .motion false placed)
    let u := capturing .awaitingGrant 0 1 (faultsAt 2 0 (exchanging 0 .motion false placed))
    (s.phase = .running ∧ ringsDisjoint s ∧ s.channels[0].state = .active ∧ s.triggers[0].capture = none ∧
      s.triggers[1].capture.isSome = true ∧ ∃ e e', s.bus.exchange = some e ∧ e.discard = false ∧ e.kind = .motion ∧
        e.channel = 0 ∧
        clockBytes s.settings.channels[e.channel].expectedId e (bytesOnSdi (onSdi motionBytes)) = .completed e' (.moved 36 (-2) 180)) ∧
    (u.phase = .running ∧ ringsDisjoint u ∧ u.channels[0].state = .active ∧ u.triggers[1].capture.isSome = true ∧
      (after (.exchangeCompletion (onSdi silence)) u).channels[0].state = .faulted ∧
      ∃ e e', u.bus.exchange = some e ∧ e.discard = false ∧ e.kind = .motion ∧ e.channel = 0 ∧
        clockBytes u.settings.channels[e.channel].expectedId e (bytesOnSdi (onSdi silence)) = .completed e' (.failed .noResponse)) :=
  ⟨⟨by decide +kernel, by unfold ringsDisjoint; decide +kernel, by decide +kernel, by decide +kernel, by decide +kernel,
      _, _, rfl, rfl, rfl, rfl, rfl⟩,
    by decide +kernel, by unfold ringsDisjoint; decide +kernel, by decide +kernel, by decide +kernel, by decide +kernel,
    _, _, rfl, rfl, rfl, rfl, rfl⟩

/-- R102, R112: such a record joins the ring of the view that selects its trigger, in the slot behind its records. -/
theorem test_exchangeCompletion_handsOver :
    let s := capturing .awaitingResult 0 1 (exchanging 0 .motion false
      (ringAt 1 6 2 12 15 0 (viewSettings 1 (fun w => { w with triggerSelection := 2 }) lit)))
    let t := after (.exchangeCompletion (onSdi motionBytes)) s
    t.triggers[1].capture = none ∧ t.rings[1].count = 16 ∧ slotBehindHead s 1 15 = 59 ∧
      readSlot t.slots 59 = some
        { trigger := 1, edge := .rising, overlap := false, timestamp := 7,
          entries := [{ channel := 0, status := .fresh, along := 36, across := -2 }] } := by decide +kernel

/-- The outcomes of an identify exchange, in the states and at the fault counts of each clause. -/
theorem test_met_IdentifyOutcomesAreApplied :
    (∀ n ∈ [1, 2],
      (faultsAt n 0 (exchanging 0 .identify false (channelIn .identify 0 base))).phase = .running ∧
      (faultsAt n 0 (exchanging 0 .identify false (channelIn .identify 0 base))).channels[0].state = .identify ∧
      (faultsAt n 0 (exchanging 0 .identify false (channelIn .identify 0 base))).channels[0].faults = n) ∧
    (exchanging 0 .identify false (channelIn .faulted 0 base)).channels[0].state = .faulted ∧
    (∃ e e', (exchanging 0 .identify false (channelIn .identify 0 base)).bus.exchange = some e ∧ e.discard = false ∧
      e.kind = .identify ∧ clockBytes 0 e (bytesOnSdi (onSdi [0xFF, 0x96, 0x11, 0xEE])) = .completed e' .identified) ∧
    ∃ e e', (exchanging 0 .identify false (channelIn .identify 0 base)).bus.exchange = some e ∧ e.discard = false ∧
      e.kind = .identify ∧ clockBytes 0 e (bytesOnSdi (onSdi silence)) = .completed e' (.failed .noResponse) :=
  ⟨by decide +kernel, by decide +kernel, ⟨_, _, rfl, rfl, rfl, rfl⟩, _, _, rfl, rfl, rfl, rfl⟩

theorem test_met_DiscardedCompletionAppliesNothing :
    (exchanging 0 .motion true base).phase = .running ∧ ∃ e e', (exchanging 0 .motion true base).bus.exchange = some e ∧
      e.discard = true ∧ clockBytes 0 e (bytesOnSdi (onSdi silence)) = .completed e' (.failed .noResponse) :=
  ⟨by decide +kernel, _, _, rfl, rfl, rfl⟩

/-- 4.11: an account at the limits that a report in flight leaves. -/
theorem test_met_AccumulationKeepsOrClips :
    ({ along := 8388607, across := -8388607, gap := 0, spill := 15, minQuality := 140 } : Account).pendingOk 32767 (-40) := by
  unfold Account.pendingOk
  decide

theorem test_met_MotionReadComposesItsReport :
    let s := turnOf 2 [.motionRead 0x10 1]
      (account 2 4 { along := 300, across := -5, gap := 0, spill := 0, minQuality := 200 } base)
    atComposition 2 (.motionRead 0x10 1) [] s s ∧ settingsLegal s ∧ (0x10 : Byte).getLsbD 4 = true ∧
      (∃ a, s.views[2].account? 4 = some a ∧ a.unchanged = false) ∧
      atComposition 2 (.motionRead 0x10 2) [] (turnOf 2 [.motionRead 0x10 2] base)
        (turnOf 2 [.motionRead 0x10 2] base) := by
  refine ⟨⟨by decide +kernel, rfl, rfl⟩, ?_, by decide, ⟨_, rfl, by decide +kernel⟩, ⟨by decide +kernel, rfl, rfl⟩⟩
  unfold settingsLegal ringsDisjoint ChannelSettings.legal
  decide +kernel

theorem test_met_MotionDeliveryConsumesItsLines :
    let s := (sending 2 .motionReport [] (account 2 4 { Account.created with along := 320 } base)).modView 2 fun v =>
      { v with report := some [{ channel := 4, along := 127, across := -5, gap := 0, spill := 0, afterMin := 170 }] }
    isSending 2 .motionReport s ∧ (∃ lines, s.views[2].report = some lines ∧ (lines.map (·.channel)).Nodup) ∧
      s.views[2].accounts[4].isSome = true :=
  ⟨⟨by decide +kernel, _, rfl, rfl⟩, ⟨_, rfl, by decide⟩, by decide +kernel⟩

/-- A composition at the end of GUARD, and one at the delivery of the reply before. -/
theorem test_met_ViewResetClearsTheView :
    atComposition 0 .viewReset [] (turnOf 0 [.viewReset] (ringAt 0 0 4 3 5 6 base))
        (turnOf 0 [.viewReset] (ringAt 0 0 4 3 5 6 base)) ∧
      atComposition 0 .viewReset [.linkStatus] (sending 0 .result [.viewReset, .linkStatus] base)
        (sending 0 .result [.viewReset, .linkStatus] base) :=
  ⟨⟨by decide +kernel, rfl, rfl⟩, by decide +kernel, rfl, rfl⟩

/-- n = 0, and n = 1, with the ring full. -/
theorem test_met_CaptureReadComposesItsReport :
    atComposition 1 (.captureRead 0) [] (turnOf 1 [.captureRead 0] base) (turnOf 1 [.captureRead 0] base) ∧
      atComposition 1 (.captureRead 1) [] (turnOf 1 [.captureRead 1] (ringAt 1 6 2 12 16 3 (recorded base)))
        (turnOf 1 [.captureRead 1] (ringAt 1 6 2 12 16 3 (recorded base))) ∧ (1 : Byte) ≠ 0 ∧
      settingsLegal (turnOf 1 [.captureRead 1] (ringAt 1 6 2 12 16 3 (recorded base))) := by
  refine ⟨⟨by decide +kernel, rfl, rfl⟩, ⟨by decide +kernel, rfl, rfl⟩, by decide, ?_⟩
  unfold settingsLegal ringsDisjoint ChannelSettings.legal
  decide +kernel

theorem test_met_CaptureDeliveryRemovesItsRecords :
    let s := (sending 1 .captureReport [] (ringAt 1 6 2 12 16 5 (recorded base))).modRing 1 fun g =>
      { g with report := some { records := 5, dropped := 3 } }
    isSending 1 .captureReport s ∧ s.rings[1].report = some { records := 5, dropped := 3 } :=
  ⟨⟨by decide +kernel, _, rfl, rfl⟩, by decide +kernel⟩

/-- The lease FREE, held by the link itself, and held by another. -/
theorem test_met_LeaseAcquireFollowsTheHolder :
    ∀ s ∈ [base, leasedBy 0 base, leasedBy 1 base],
      atComposition 0 .leaseAcquire [] (turnOf 0 [.leaseAcquire] s) (turnOf 0 [.leaseAcquire] s) := by
  intro s hs
  simp only [List.mem_cons, List.not_mem_nil, or_false] at hs
  obtain rfl | rfl | rfl := hs <;> exact ⟨by decide +kernel, rfl, rfl⟩

theorem test_met_LeaseReleaseFollowsTheHolder :
    ∀ s ∈ [base, leasedBy 0 base, leasedBy 1 base],
      atComposition 0 .leaseRelease [] (turnOf 0 [.leaseRelease] s) (turnOf 0 [.leaseRelease] s) := by
  intro s hs
  simp only [List.mem_cons, List.not_mem_nil, or_false] at hs
  obtain rfl | rfl | rfl := hs <;> exact ⟨by decide +kernel, rfl, rfl⟩

/-- The counts 0, 1, 32 and 33; a run that exists and one that does not; and a payload that is not three bytes. -/
theorem test_met_SettingReadAnswers :
    (∀ p : List Byte, atComposition 0 (.settingRead p) [] (turnOf 0 [.settingRead p] base)
      (turnOf 0 [.settingRead p] base)) ∧
    ([0, 0] : List Byte).length ≠ 3 ∧ 32 < (33 : Byte).toNat ∧ 1 ≤ (1 : Byte).toNat ∧ (32 : Byte).toNat ≤ 32 ∧
    resolveRun (256 * (1 : Byte).toNat + (0 : Byte).toNat) (32 : Byte).toNat = none ∧
    (resolveRun (256 * (1 : Byte).toNat + (0 : Byte).toNat) (18 : Byte).toNat).isSome = true :=
  ⟨fun _ => ⟨rfl, rfl, rfl⟩, by decide, by decide, by decide, by decide, by decide +kernel,
    by decide +kernel⟩

/-- What the checks answer to a write on link `l`. -/
def answer (s : State) (l : LinkId) (p : List Byte) : Option ResultCode :=
  match checkWrite s l p with
  | .ok _ => none
  | .error c => some c

/-- A payload that each of the six checks is the first to refuse, the lengths at the edges of the first, and one that
none refuses. -/
theorem test_met_WriteChecksRefuseInOrder :
    answer base 0 [1, 0, 0, 1, 0] = some .badRequest ∧ answer base 0 [1, 0] = some .badRequest ∧
      answer base 0 (1 :: 0 :: List.replicate 66 0) = some .badRequest ∧
      answer base 0 (1 :: 0 :: List.replicate 64 0) = some .badAddress ∧ answer base 0 [0, 0, 0, 1] = some .readOnly ∧
      answer base 0 [1, 0, 0, 1] = some .noLease ∧ answer (leasedBy 0 base) 0 [1, 0, 0, 2] = some .outOfRange ∧
      answer base 0 [3, 8, 0, 15, 0, 2] = some .outOfRange ∧
      answer (ringAt 1 4 4 0 0 0 base) 2 [3, 8, 0, 6, 0, 6] = some .overlap ∧ answer base 0 [3, 8, 0, 15, 0, 1] = none ∧
      answer (leasedBy 0 base) 0 [1, 0, 0, 1] = none := by decide +kernel

theorem test_met_WriteChecksRefuseInOrder_answer :
    let w : List Byte := [1, 0, 0, 1]
    atComposition 0 (.settingWrite w) [] (turnOf 0 [.settingWrite w] base) (turnOf 0 [.settingWrite w] base) ∧
      checkWrite (turnOf 0 [.settingWrite w] base) 0 w = .error .noLease :=
  ⟨⟨by decide +kernel, rfl, rfl⟩, rfl⟩

/-- A write of the link's own view, and one under the lease. -/
theorem test_met_AcceptedWriteIsHeld :
    ∀ w ∈ [([3, 0, 0, 0x22] : List Byte), [0, 0x0A, 0, 255]],
      atComposition 0 (.settingWrite w) [] (turnOf 0 [.settingWrite w] (leasedBy 0 base))
        (turnOf 0 [.settingWrite w] (leasedBy 0 base)) ∧
      answer (turnOf 0 [.settingWrite w] (leasedBy 0 base)) 0 w = none := by
  intro w hw
  simp only [List.mem_cons, List.not_mem_nil, or_false] at hw
  obtain rfl | rfl := hw <;> exact ⟨⟨by decide +kernel, rfl, rfl⟩, by decide +kernel⟩

theorem test_met_WrittenSettingReadsBack :
    let w : List Byte := [0, 0x0A, 0, 255]
    let s := turnOf 0 [.settingWrite w] (leasedBy 0 base)
    atComposition 0 (.settingWrite w) [] s s ∧ parseWrite w = some (0x0A, [255]) ∧
      resolve 0x0A = some (.global .leaseTimeout) ∧ answer s 0 w = none ∧
      (∃ t, exec (.settingWrite 0 w) s = .next t) ∧ readSetting (after (.settingWrite 0 w) s) 0 (.global .leaseTimeout) = 255 :=
  ⟨⟨by decide +kernel, rfl, rfl⟩, by decide +kernel, by decide +kernel, by decide +kernel, ⟨_, rfl⟩, by decide +kernel⟩

/-- A run of two values, of the link's own view: its first and its last value. -/
theorem test_met_WrittenSettingReadsBack_run :
    let p : List Byte := [3, 0, 0, 0x22, 0, 12]
    let s := turnOf 1 [.settingWrite p] base
    atComposition 1 (.settingWrite p) [] s s ∧ parseWrite p = some (0x300, [0x22, 12]) ∧
      (∃ w, checkWrite s 1 p = .ok w) ∧ ([0x22, 12] : List Word)[1]? = some 12 ∧
      ∃ x, resolve (0x300 + 1) = some x ∧ readSetting (after (.settingWrite 1 p) s) 1 x = 12 :=
  ⟨⟨by decide +kernel, rfl, rfl⟩, by decide +kernel, ⟨_, rfl⟩, by decide, _, rfl, by decide +kernel⟩

theorem test_met_ChannelEnableStartsIdentification :
    let p : List Byte := [1, 0xA0, 0, 1]
    let s := turnOf 0 [.settingWrite p] (leasedBy 0 base)
    atComposition 0 (.settingWrite p) [] s s ∧ ∃ w, checkWrite s 0 p = .ok w ∧
      s.settings.channels[(5 : ChannelId)].enable = false ∧ w.left.shared.channels[(5 : ChannelId)].enable = true :=
  ⟨⟨by decide +kernel, rfl, rfl⟩, _, rfl, by decide +kernel, by decide +kernel⟩

theorem test_met_ChannelDisableStopsTheChannel :
    let p : List Byte := [1, 0, 0, 0]
    let placed := ringAt 1 6 2 12 15 0 (viewSettings 1 (fun w => { w with triggerSelection := 2 }) lit)
    let s := writing 0 p (capturing .awaitingGrant 0 1 (exchanging 0 .motion false placed))
    atComposition 0 (.settingWrite p) [] s s ∧ ringsDisjoint s ∧ s.triggers[0].capture = none ∧ s.triggers[1].capture.isSome = true ∧
      ∃ w, checkWrite s 0 p = .ok w ∧
      s.settings.channels[(0 : ChannelId)].enable = true ∧ w.left.shared.channels[(0 : ChannelId)].enable = false :=
  ⟨⟨by decide +kernel, rfl, rfl⟩, by unfold ringsDisjoint; decide +kernel, by decide +kernel, by decide +kernel, _, rfl,
    by decide +kernel, by decide +kernel⟩

/-- A forced tier set without an enable change, and one released. -/
theorem test_met_ForcedTierActsAtOnce :
    let p : List Byte := [1, 9, 0, 4]
    let s := turnOf 0 [.settingWrite p] (leasedBy 0 lit)
    let q : List Byte := [1, 9, 0, 0]
    let u := turnOf 0 [.settingWrite q] (leasedBy 0 (polled .t2 9 (some .t2)))
    (atComposition 0 (.settingWrite p) [] s s ∧ ∃ w, checkWrite s 0 p = .ok w ∧
      Setting.channel 0 .forcedTier ∈ w.run ∧ w.left.shared.channels[(0 : ChannelId)].forcedTier = some .t3 ∧
      w.left.shared.channels[(0 : ChannelId)].enable = s.settings.channels[(0 : ChannelId)].enable) ∧
    (atComposition 0 (.settingWrite q) [] u u ∧ ∃ w, checkWrite u 0 q = .ok w ∧
      Setting.channel 0 .forcedTier ∈ w.run ∧ u.settings.channels[(0 : ChannelId)].forcedTier = some .t2 ∧
      w.left.shared.channels[(0 : ChannelId)].forcedTier = none) :=
  ⟨⟨⟨by decide +kernel, rfl, rfl⟩, _, rfl, by decide +kernel, by decide +kernel, by decide +kernel⟩,
    ⟨by decide +kernel, rfl, rfl⟩, _, rfl, by decide +kernel, by decide +kernel, by decide +kernel⟩

theorem test_met_TriggerEnableStartsAndStopsTheWatch :
    let p : List Byte := [2, 0x10, 0, 1, 0, 2, 0, 0, 0, 1, 0, 0x26]
    let s := turnOf 0 [.settingWrite p] (leasedBy 0 base)
    let q : List Byte := [2, 0x10, 0, 0]
    let u := turnOf 0 [.settingWrite q]
      (leasedBy 0 (watching .watching .high { TriggerSettings.reset with enable := true, mask := 1 } 1 base))
    (atComposition 0 (.settingWrite p) [] s s ∧ ∃ w, checkWrite s 0 p = .ok w ∧
      s.settings.triggers[(1 : TriggerId)].enable = false ∧ w.left.shared.triggers[(1 : TriggerId)].enable = true) ∧
    (atComposition 0 (.settingWrite q) [] u u ∧ ∃ w, checkWrite u 0 q = .ok w ∧
      u.settings.triggers[(1 : TriggerId)].enable = true ∧ w.left.shared.triggers[(1 : TriggerId)].enable = false) :=
  ⟨⟨⟨by decide +kernel, rfl, rfl⟩, _, rfl, by decide +kernel, by decide +kernel⟩,
    ⟨by decide +kernel, rfl, rfl⟩, _, rfl, by decide +kernel, by decide +kernel⟩

/-- A mask that takes CH0 out, adds CH1 and keeps CH4. -/
theorem test_met_SubscriptionChangeMakesAndRemovesAccounts :
    let p : List Byte := [3, 0, 0, 0x12]
    let s := turnOf 0 [.settingWrite p] (account 0 4 Account.created lit)
    atComposition 0 (.settingWrite p) [] s s ∧ ∃ w, checkWrite s 0 p = .ok w ∧
      w.left.own.mask ≠ s.views[(0 : LinkId)].settings.mask ∧
      s.views[(0 : LinkId)].settings.mask.getLsbD 1 = false ∧ w.left.own.mask.getLsbD 1 = true ∧
      w.left.own.mask.getLsbD 0 = false ∧ s.views[(0 : LinkId)].settings.mask.getLsbD 4 = true ∧
      w.left.own.mask.getLsbD 4 = true :=
  ⟨⟨by decide +kernel, rfl, rfl⟩, _, rfl, by decide +kernel, by decide +kernel, by decide +kernel, by decide +kernel,
    by decide +kernel, by decide +kernel⟩

theorem test_met_RingPlacementEmptiesTheRing :
    let p : List Byte := [3, 9, 0, 2]
    let s := turnOf 1 [.settingWrite p] (ringAt 1 4 4 3 2 1 base)
    atComposition 1 (.settingWrite p) [] s s ∧ ∃ w, checkWrite s 1 p = .ok w ∧ Setting.own .ringLength ∈ w.run :=
  ⟨⟨by decide +kernel, rfl, rfl⟩, _, rfl, by decide +kernel⟩

/-- A write that leaves each mode, from OFF, and one that keeps PULSE. -/
theorem test_met_AttentionSettingsActAtOnce :
    (∀ m ∈ [(1 : Byte), 2],
      atComposition 0 (.settingWrite [3, 5, 0, m]) [] (turnOf 0 [.settingWrite [3, 5, 0, m]] base)
        (turnOf 0 [.settingWrite [3, 5, 0, m]] base) ∧
      answer (turnOf 0 [.settingWrite [3, 5, 0, m]] base) 0 [3, 5, 0, m] = none) ∧
    (∀ m ∈ [(0 : Byte), 2],
      atComposition 0 (.settingWrite [3, 5, 0, m]) [] (turnOf 0 [.settingWrite [3, 5, 0, m]] (pulsing 5 false .owed base))
        (turnOf 0 [.settingWrite [3, 5, 0, m]] (pulsing 5 false .owed base)) ∧
      answer (turnOf 0 [.settingWrite [3, 5, 0, m]] (pulsing 5 false .owed base)) 0 [3, 5, 0, m] = none) ∧
    ∃ w, checkWrite base 0 [3, 5, 0, 2] = .ok w ∧ Setting.own .attentionMode ∈ w.run ∧
      w.left.own.attentionMode = .pulse := by
  refine ⟨fun m hm => ?_, fun m hm => ?_, _, rfl, by decide +kernel, by decide +kernel⟩ <;>
    simp only [List.mem_cons, List.not_mem_nil, or_false] at hm <;>
    obtain rfl | rfl := hm <;> exact ⟨⟨by decide +kernel, rfl, rfl⟩, by decide +kernel⟩

/-- A payload of nine bytes; without the lease; channel 8 and channel 7; axes 0, 1, 2, 3 and 4. -/
theorem test_met_PresetSetsThePosition :
    (∀ p : List Byte, atComposition 0 (.preset p) [] (turnOf 0 [.preset p] base) (turnOf 0 [.preset p] base)) ∧
    (∀ p : List Byte, atComposition 0 (.preset p) [] (turnOf 0 [.preset p] (leasedBy 0 base))
      (turnOf 0 [.preset p] (leasedBy 0 base))) ∧ (List.replicate 9 (0 : Byte)).length ≠ 10 ∧
    base.lease.holder ≠ some 0 ∧ (leasedBy 0 base).lease.holder = some 0 ∧
    (∀ x ∈ [(0 : Byte), 1, 2, 3, 4], ∀ c ∈ [(7 : Byte), 8],
      parsePreset [c, x, 0, 0, 0, 100, 0, 0, 0, 5] = some { channel := c, axes := x, along := 100, across := 5 }) ∧
    8 ≤ (8 : Byte).toNat ∧ (7 : Byte) = BitVec.ofNat 8 (7 : ChannelId).val ∧ 4 ≤ (4 : Byte).toNat :=
  ⟨fun _ => ⟨rfl, rfl, rfl⟩, fun _ => ⟨rfl, rfl, rfl⟩, by decide, by decide +kernel,
    by decide +kernel, by decide +kernel, by decide, by decide, by decide⟩

theorem test_met_HeaderCode_reserved : (0x40 : Byte).getLsbD 6 = true ∧ (0x80 : Byte).getLsbD 7 = true := by decide

/-- The shortest and the longest payload, and a queue with three requests. -/
theorem test_met_ReceivedFrameIsTheRequest :
    sendable (.settingRead [0]) = true ∧ sendable (.settingWrite (List.replicate 256 0)) = true ∧
      sendable (.motionRead 0 0) = true ∧ listening 3 base ∧
      listening 0 (base.modLink 0 fun k => { k with queue := [.viewReset, .viewReset, .viewReset] }) ∧
      (base.modLink 0 fun k => { k with queue := [.viewReset, .viewReset, .viewReset] }).links[0].queue.length < 4 := by
  unfold listening
  decide +kernel

theorem test_met_FramesThatJoinNoQueue :
    listening 0 base ∧ payloadOk [0] = true ∧ payloadOk (List.replicate 256 0) = true ∧ sendable .linkStatus = true ∧
      listening 0 (base.modLink 0 fun k => { k with queue := List.replicate 4 .viewReset }) ∧
      (base.modLink 0 fun k => { k with queue := List.replicate 4 .viewReset }).links[0].queue.length = 4 := by
  unfold listening
  decide +kernel

/-- Each state of the receiver that a clause names. -/
theorem test_met_ReceiverTakesBytes :
    operating base 3 = true ∧ (turnOf 0 [] base).links[0].owner = .am48 ∧ base.links[0].owner = .client ∧
      base.links[0].receiver = .idle ∧
      (∀ r ∈ [Receiver.header [1], .header [1, 2], .header [1, 2, 3], .payload 0x40 256 [] false,
          .payload 0x40 1 [] false, .footer 0x40 [1] none false, .footer 0x40 [1] (some 2) true, .discard],
        operating (receiving 0 r base) 0 = true ∧ (receiving 0 r base).links[0].owner = .client ∧
          (receiving 0 r base).links[0].receiver = r) ∧
      (0x00 : Byte) ++ (0x00 : Byte) ≠ crc [1, 2, 3] ∧
      (0x29 : Byte) ++ (0xB1 : Byte) = crc [0x31, 0x32, 0x33, 0x34, 0x35, 0x36, 0x37, 0x38, 0x39] ∧
      (longRequest? 0x40 [1, 2, 3]).isSome = true := by decide +kernel

/-- Characters, a space that is no start bit and a missing stop bit; and a link that the AM48 owns, between the bytes of
a frame, after its last and in GUARD. -/
theorem test_met_ReceiverTakesBytes_levels :
    (allMark.getLsbD 0 = true ∧ (0 : Samples 10).getLsbD 9 = false ∧ (character 3).getLsbD 0 = false ∧
        (character 3).getLsbD 9 = true) ∧
      (∀ left ∈ [([0x8F, 0x41] : List Byte), []],
        operating (sendingBytes 0 left base) 0 = true ∧ (sendingBytes 0 left base).links[0].owner = .am48 ∧
          (sendingBytes 0 left base).links[0].tx = .sending { kind := .turn, bytes := [0x8F, 0x41], left := left }) ∧
      operating (turnOf 0 [] base) 0 = true ∧ (turnOf 0 [] base).links[0].owner = .am48 ∧
      (turnOf 0 [] base).links[0].tx = .guard ∧
      ∀ taken, (receiving 0 (.awaitMark taken) base).links[0].owner = .client ∧
        (receiving 0 (.awaitMark taken) base).links[0].receiver = .awaitMark taken := by decide +kernel

/-- Headers of each outcome and form; lengths 0, 1, 256 and 257. -/
theorem test_met_HeaderDecidesTheFrame :
    operating (receiving 0 (.header [0x11, 8, 0]) base) 0 = true ∧
      (receiving 0 (.header [0x11, 8, 0]) base).links[0].owner = .client ∧
      (receiving 0 (.header [0x11, 8, 0]) base).links[0].receiver = .header [0x11, 8, 0] ∧
      decodeHeader (headerBits 0x11 8 0) 0xFF = .uncorrectable ∧
      decodeHeader (headerBits 0x11 0x0A 0) 0x3D = .corrected (headerBits 0x11 8 0) ∧
      (∀ k ∈ [(0x03 : Byte), 0x81, 0x40, 0x43, 0x7F, 0xC0], ∀ hi ∈ [(0 : Byte), 1], ∀ lo ∈ [(0 : Byte), 1],
        decodeHeader (headerBits k hi lo) (checkByte (headerBits k hi lo)) = .intact) ∧
      isShortKind 0x03 = true ∧ (0x03 : Byte) ∉ ([0x01, 0x02, 0x10, 0x11, 0x12, 0x13, 0x20, 0x21] : List Byte) ∧
      isShortKind 0x40 = false ∧ 256 < 256 * (1 : Byte).toNat + (1 : Byte).toNat ∧
      1 ≤ 256 * (0 : Byte).toNat + (1 : Byte).toNat ∧ 256 * (1 : Byte).toNat + (0 : Byte).toNat ≤ 256 ∧
      (0x43 : Byte) ∈ ([0x40, 0x41, 0x42, 0x43] : List Byte) ∧ (0x7F : Byte) ∉ ([0x40, 0x41, 0x42, 0x43] : List Byte) ∧
      isShortKind 0x7F = false := by
  and_intros <;> decide +kernel

theorem test_met_LineEventsMoveTheReceiver :
    (turnOf 0 [] base).links[0].owner = .am48 ∧ operating (turnOf 0 [] base) 0 = true ∧
      ∀ r ∈ [Receiver.idle, .header [1], .payload 0x40 3 [1] true, .footer 0x40 [1] none false, .discard,
          .awaitMark true],
        operating (receiving 0 r base) 0 = true ∧ (receiving 0 r base).links[0].owner = .client ∧
          (receiving 0 r base).links[0].receiver = r := by decide +kernel

/-- A break while each kind of report is being sent, on the holder's link and on another. -/
theorem test_met_BreakEndsTheTurn :
    (∀ k : ReplyKind, operating (sending 0 k [] (leasedBy 0 base)) 0 = true ∧
      (sending 0 k [] (leasedBy 0 base)).links[0].receiver ≠ .awaitMark true ∧
      isSending 0 k (sending 0 k [] (leasedBy 0 base))) ∧
    (leasedBy 0 base).lease.holder = some 0 ∧ base.lease.holder ≠ some 0 ∧
    (deliverFrame 0 .linkStatusData (sending 0 .linkStatusData [] base)).links[0].status = none ∧
    ∀ f, (turnOf 0 [] base).links[0].tx ≠ .sending f := by
  refine ⟨fun k => ?_, by decide +kernel, by decide +kernel, by decide +kernel, fun f h => by cases h⟩
  cases k <;> exact ⟨by decide +kernel, by decide +kernel, by decide +kernel, _, rfl, rfl⟩

/-- A request, an empty queue with the summary empty and not, and each kind of delivery. -/
theorem test_met_TurnsRunTheirCourse :
    atComposition 0 .linkStatus [] (turnOf 0 [.linkStatus] base) (turnOf 0 [.linkStatus] base) ∧
      (operating (turnOf 0 [] base) 0 = true ∧ compositionState 0 (turnOf 0 [] base) = some (turnOf 0 [] base) ∧
        (turnOf 0 [] base).links[0].queue = [] ∧ (turnOf 0 [] base).links[0].summary = 0) ∧
      ((turnOf 0 [] base).modLink 0 fun k => { k with summary := 0x400 }).links[0].summary ≠ 0 ∧
      (turnOf 0 [] base).links[0].tx = .guard ∧ isSending 0 .result (sending 0 .result [] base) ∧
      isSending 0 .settingData (sending 0 .settingData [] base) ∧
      isSending 0 .errorReport (sending 0 .errorReport [] base) ∧ isSending 0 .turn (sending 0 .turn [] base) :=
  ⟨⟨by decide +kernel, rfl, rfl⟩, ⟨by decide +kernel, rfl, rfl, by decide +kernel⟩, by decide +kernel,
    by decide +kernel, ⟨by decide +kernel, _, rfl, rfl⟩, ⟨by decide +kernel, _, rfl, rfl⟩,
    ⟨by decide +kernel, _, rfl, rfl⟩, by decide +kernel, _, rfl, rfl⟩

theorem test_met_LinkStatusReportsAndConsumes :
    let s := (sending 0 .linkStatusData [] base).modLink 0 fun k =>
      { k with accepted := 24
               status := some { accepted := 24, corrected := 3, discarded := 2, breaks := 1, notice := true } }
    atComposition 0 .linkStatus [] (turnOf 0 [.linkStatus] base) (turnOf 0 [.linkStatus] base) ∧
      isSending 0 .linkStatusData s ∧ s.links[0].status.isSome = true :=
  ⟨⟨by decide +kernel, rfl, rfl⟩, ⟨by decide +kernel, _, rfl, rfl⟩, by decide +kernel⟩

/-- A state with an exchange in flight, a lease held, an account in use and a command waiting, which the invariants
hold in and from which a step goes on. -/
def busy : State :=
  { leasedBy 0 (exchanging 0 .motion false
      (account 0 0 { along := 8388607, across := -8388607, gap := 15, spill := 15, minQuality := 0 } lit)) with
    pending := [.exchangeCompletion (onSdi motionBytes)] }

/-- The same with a record in the ring of L1, and a capture in flight that the exchange fills. -/
def busyMemory : State :=
  let s := capturing .awaitingResult 0 1 (watching .watching .low { TriggerSettings.reset with enable := true, mask := 1 } 1
    (ringAt 1 2 1 7 1 3 busy))
  { s with slots := writeSlot s.slots 23 (some record) }

/-- The same with the reply of link L1 half sent. -/
def busyLink : State := sendingBytes 1 [0x41] busy

theorem test_met_StepKeepsLinksConsistent : linksConsistent busyLink ∧ ∃ t, step busyLink = .next t := by
  have h : ∀ l : LinkId, (busyLink.links[l].owner = .client ↔ busyLink.links[l].tx = .idle) ∧
      (busyLink.links[l].owner = .am48 → busyLink.links[l].receiver = .idle) ∧
      (busyLink.views[l].report.isSome = true ↔ busyLink.links[l].kindSent = some .motionReport) ∧
      (busyLink.rings[l].report.isSome = true ↔ busyLink.links[l].kindSent = some .captureReport) ∧
      (busyLink.links[l].status.isSome = true ↔ busyLink.links[l].kindSent = some .linkStatusData) := by decide +kernel
  have hf : ∀ l : LinkId, busyLink.links[l].tx = .idle ∨
      busyLink.links[l].tx = .sending { kind := .turn, bytes := [0x8F, 0x41], left := [0x41] } := by decide +kernel
  refine ⟨⟨by unfold queuesBounded; decide +kernel, fun hp => absurd (by decide +kernel) hp, fun l => ?_⟩, _, rfl⟩
  refine ⟨(h l).1, (h l).2.1, fun f hs => ?_, (h l).2.2⟩
  obtain hi | hi := hf l <;> rw [hi] at hs <;> cases hs
  exact ⟨[0x8F], rfl⟩

theorem busyMemory_links (l : LinkId) :
    (busyMemory.links[l].owner = .client ∧ busyMemory.links[l].tx = .idle ∧ busyMemory.links[l].queue = []) ∧
      busyMemory.views[l].report = none ∧ busyMemory.rings[l].report = none ∧ busyMemory.links[l].status = none := by
  revert l
  decide +kernel

theorem busyMemory_slots (n : Nat) : readSlot busyMemory.slots n = if n = 23 then some record else none := by
  have hr : readSlot State.reset.slots n = none := by
    unfold readSlot
    split
    · simp [State.reset]
    · rfl
  show readSlot (writeSlot State.reset.slots 23 (some record)) n = _
  rw [readSlot_writeSlot, hr]
  by_cases h : n = 23
  · subst h; rfl
  · rw [if_neg h, if_neg fun x => h x.1.symm]

theorem busyMemory_rings :
    (∀ v : LinkId, (busyMemory.rings[v].count = if v = 1 then 1 else 0) ∧
      busyMemory.rings[v].count ≤ 8 * busyMemory.views[v].settings.ringLength ∧
      (busyMemory.rings[v].head < 8 * busyMemory.views[v].settings.ringLength ∨ busyMemory.rings[v].head = 0) ∧
      busyMemory.rings[v].dropped ≤ 255) ∧ slotBehindHead busyMemory 1 0 = 23 := by decide +kernel

theorem busyMemory_triggers (i : TriggerId) :
    (busyMemory.triggers[i].watch = .off ↔ busyMemory.settings.triggers[i].enable = false) ∧
      (busyMemory.triggers[i].watch = .off → busyMemory.triggers[i].confirmOwed = false) ∧
      (busyMemory.triggers[i].capture = none ∨ busyMemory.triggers[i].capture = some
        { edge := .rising, overlap := false, timestamp := 7, entries := [{ channel := 0, stage := .awaitingResult }] }) := by
  revert i
  decide +kernel

theorem test_met_StepKeepsTheCaptureMemory :
    settingsLegal busyMemory ∧ linksConsistent busyMemory ∧ captureMemoryConsistent busyMemory ∧
      ∃ t, step busyMemory = .next t := by
  have hp : busyMemory.phase = .running := by decide +kernel
  obtain ⟨hr, hs⟩ := busyMemory_rings
  have hrec : entriesOk (record.entries.map (·.channel)) := by unfold entriesOk; decide
  refine ⟨by unfold settingsLegal ringsDisjoint ChannelSettings.legal; decide +kernel,
    ⟨fun l => by rw [(busyMemory_links l).1.2.2]; decide, fun h => absurd hp h, fun l => ?_⟩,
    ⟨⟨fun v => ⟨(hr v).2.1, (hr v).2.2.1, fun k hk => ?_⟩, fun n hn => ?_⟩,
      fun v => ⟨(hr v).2.2.2, fun rep h => ?_⟩, ⟨fun i => ?_, fun n r h => ?_⟩, fun h => absurd hp h⟩, _, rfl⟩
  · obtain ⟨⟨h1, h2, -⟩, h3, h4, h5⟩ := busyMemory_links l
    unfold Link.kindSent
    rw [h1, h2, h3, h4, h5]
    refine ⟨by decide, by rintro ⟨⟩, by rintro f ⟨⟩, by decide, by decide, by decide⟩
  · rw [(hr v).1] at hk
    by_cases hv : v = 1
    · subst hv
      obtain rfl : k = 0 := by simpa using hk
      rw [hs, busyMemory_slots]; rfl
    · rw [if_neg hv] at hk; cases hk
  · rw [busyMemory_slots, if_neg]
    have := hn 1 0 (by rw [(hr 1).1]; decide)
    rwa [hs] at this
  · rw [(busyMemory_links v).2.2.1] at h; cases h
  · obtain ⟨h1, h2, h3⟩ := busyMemory_triggers i
    refine ⟨h1, h2, fun cap h => ?_⟩
    obtain h3 | h3 := h3 <;> rw [h3] at h <;> cases h
    exact ⟨by unfold entriesOk; decide, _, List.mem_singleton.2 rfl, rfl⟩
  · rw [busyMemory_slots] at h
    split at h <;> cases h
    exact hrec

theorem test_met_StepKeepsAccountsToTheMask : accountsMatchMask busy ∧ ∃ t, step busy = .next t :=
  ⟨by unfold accountsMatchMask; decide +kernel, _, rfl⟩

theorem test_met_StepKeepsSettingsLegal : settingsLegal busy ∧ ∃ t, step busy = .next t :=
  ⟨by unfold settingsLegal ringsDisjoint ChannelSettings.legal; decide +kernel, _, rfl⟩

theorem test_met_StepKeepsTheLeaseConsistent : leaseConsistent busy ∧ ∃ t, step busy = .next t :=
  ⟨by unfold leaseConsistent; decide +kernel, _, rfl⟩

theorem test_met_StepKeepsChannelsConsistent : channelsConsistent busy ∧ ∃ t, step busy = .next t :=
  ⟨⟨by decide +kernel, fun e h _ => by cases h; decide +kernel⟩, _, rfl⟩

theorem test_met_StepKeepsAttentionCurrent : attentionCurrent busy ∧ ∃ t, step busy = .next t :=
  ⟨by unfold attentionCurrent; decide +kernel, _, rfl⟩

theorem test_met_StepKeepsAccountsWithinLimits : accountsWithinLimits busy ∧ ∃ t, step busy = .next t := by
  refine ⟨fun v => ⟨fun lines h => ?_, fun c a h => ?_⟩, _, rfl⟩
  · have hn : ∀ v : LinkId, busy.views[v].report = none := by decide +kernel
    rw [hn v] at h
    cases h
  · have ha : ∀ (v : LinkId) (c : ChannelId), ∀ a ∈ busy.views[v].accounts[c],
        a.countsOk ∧ a.pendingOk (busy.views[v].reportedAlong c) (busy.views[v].reportedAcross c) := by
      unfold Account.countsOk Account.pendingOk
      decide +kernel
    exact ha v c a h

end Sys2Proof.Tests
end

/-! PROOFS. O15: the priority-streak counter (R36). The grant events come first, then that no other event but RESET
moves the counter: what a channel's disable does to the bus, a request, the turn of a link, and every command. -/

namespace Sys2Proof.Machine

/-! ## At a grant -/

/-- R36: whether a channel other than `c` is due. -/
theorem any_other_due_iff {s : State} {c : ChannelId} :
    (allChannels.any fun d => decide (d ≠ c) && dueSet s d) = true ↔
      ∃ d : ChannelId, d ≠ c ∧ s.polls[d].due = true := by
  simp [dueSet]

theorem streakAfter_of_other_due {s : State} {c : ChannelId} (hp : usesPriority s = true)
    (hd : ∃ d : ChannelId, d ≠ c ∧ s.polls[d].due = true) :
    streakAfter s c = satInc Config.streakMax s.bus.streak := by
  unfold streakAfter
  rw [hp, any_other_due_iff.2 hd]
  rfl

theorem streakAfter_of_no_other_due {s : State} {c : ChannelId}
    (hd : ∀ d : ChannelId, d ≠ c → s.polls[d].due = false) : streakAfter s c = 0 := by
  have hn : ¬ (allChannels.any fun d => decide (d ≠ c) && dueSet s d) = true := by
    rw [any_other_due_iff]
    rintro ⟨d, hne, hdue⟩
    rw [hd d hne] at hdue
    cases hdue
  unfold streakAfter
  rw [Bool.eq_false_iff.2 hn, Bool.and_false]
  rfl

theorem streakAfter_of_due_grant {s : State} {c : ChannelId} (hp : usesPriority s = false) : streakAfter s c = 0 := by
  unfold streakAfter
  rw [hp, Bool.false_and]
  rfl

theorem grantTo_streak (c : ChannelId) (kind : ExchangeKind) (s : State) :
    (grantTo c kind s).bus.streak = streakAfter s c := by
  simp [grantTo]

/-- R24: a channel that is not OFF calls for an exchange. -/
theorem kindFor_of_not_off {x : ChannelState} (h : x ≠ .off) : ∃ kind, kindFor x = some kind := by
  cases x with
  | off => exact absurd rfl h
  | identify => exact ⟨_, rfl⟩
  | active => exact ⟨_, rfl⟩
  | faulted => exact ⟨_, rfl⟩

theorem grantEvent_eq_grantTo {s : State} {c : ChannelId} (hb : s.bus.exchange = none)
    (hc : arbiterChoice s = some c) (hs : s.channels[c].state ≠ .off) :
    ∃ kind, grantEvent s = grantTo c kind s := by
  obtain ⟨kind, hk⟩ := kindFor_of_not_off hs
  refine ⟨kind, ?_⟩
  unfold grantEvent
  rw [hb, hc]
  simp only [hk]

/-- R36: the counter after a GRANT command that grants channel `c`. -/
theorem exec_grant_streak {s t : State} {c : ChannelId} (hr : s.phase = .running) (hb : s.bus.exchange = none)
    (hc : arbiterChoice s = some c) (hs : s.channels[c].state ≠ .off) (h : exec .grant s = .next t) :
    t.bus.streak = streakAfter s c := by
  obtain ⟨kind, hk⟩ := grantEvent_eq_grantTo hb hc hs
  have ht : effect .grant s = grantTo c kind s := by
    rw [← hk]
    exact if_pos hr
  rw [exec_eq_effect, ht] at h
  injection h with h
  rw [← h, grantTo_streak]

/-! ## Requests -/

/-- R30: the discard mark is on the exchange in flight alone. -/
@[simp] theorem markDiscard_streak (c : ChannelId) (b : Bus) : (markDiscard c b).streak = b.streak := by
  unfold markDiscard
  split
  · rfl
  · split <;> rfl

@[simp] theorem disableChannel_streak (c : ChannelId) (s : State) :
    (disableChannel c s).bus.streak = s.bus.streak := by
  simp [disableChannel]

@[simp] theorem applyEnable_streak (old new : Settings) (s : State) (c : ChannelId) :
    (applyEnable old new s c).bus.streak = s.bus.streak := by
  unfold applyEnable
  split <;> simp

@[simp] theorem applyEnables_streak (old new : Settings) (cs : List ChannelId) (s : State) :
    (cs.foldl (applyEnable old new) s).bus.streak = s.bus.streak :=
  foldl_keeps (fun s => s.bus.streak) _ (applyEnable_streak old new) cs s

@[simp] theorem applyWrite_streak (l : LinkId) (w : AcceptedWrite) (s : State) :
    (applyWrite l w s).bus.streak = s.bus.streak := by
  simp [applyWrite]

@[simp] theorem runSettingWrite_streak (l : LinkId) (payload : List Byte) (s : State) :
    (runSettingWrite l payload s).bus.streak = s.bus.streak := by
  unfold runSettingWrite
  split <;> simp

@[simp] theorem runRequest_streak (l : LinkId) (r : Request) (s : State) :
    (runRequest l r s).bus.streak = s.bus.streak := by
  cases r <;> simp [runRequest]

@[simp] theorem execute_streak (l : LinkId) (r : Request) (rest : List Request) (s : State) :
    (execute l r rest s).bus.streak = s.bus.streak := by
  simp [execute]

/-! ## Every command but GRANT and RESET -/

/-- The state's priority-streak counter stands at `n`. -/
def streakIs (n : Nat) (s : State) : Prop := s.bus.streak = n

theorem streakIs_congr {n : Nat} {s t : State} (h : t.bus.streak = s.bus.streak) (hs : streakIs n s) : streakIs n t :=
  h.trans hs

/-- The turn of a link keeps the counter, at each of its compositions and deliveries. -/
theorem turnKeeps_streakIs (n : Nat) : TurnKeeps (streakIs n) fun _ => streakIs n where
  guard _ _ _ _ h := h
  deliver _ _ _ _ _ := streakIs_congr (by simp)
  execute _ _ _ _ _ _ := streakIs_congr (by simp)
  closing _ _ _ := streakIs_congr (by simp)
  turn _ _ _ := streakIs_congr (by simp)
  endTurn _ _ _ := streakIs_congr (by simp)

theorem strapEvent_streak (atn ld : BitVec 4) (s : State) : (strapEvent atn ld s).bus.streak = s.bus.streak := by
  unfold strapEvent
  split
  · simp [sampleStraps]
  · rfl
  · rfl

theorem releaseEvent_streak (s : State) : (releaseEvent s).bus.streak = s.bus.streak := by
  unfold releaseEvent
  split <;> rfl

theorem completeExchange_streak (e : Exchange) (o : ExchangeOutcome) (s : State) :
    (completeExchange e o s).bus.streak = s.bus.streak := by
  simp [completeExchange]

/-- R29: bytes on SDI move the exchange in flight, and its completion takes the record away. -/
theorem exchangeEvent_streak (sdi : List (Samples 8)) (s : State) :
    (exchangeEvent sdi s).bus.streak = s.bus.streak := by
  unfold exchangeEvent
  split
  · rfl
  · split
    · rfl
    · exact completeExchange_streak _ _ _

/-- R36: an event of the part or of a link keeps the counter if its change of state does. -/
theorem whenRunning_streakIs {n : Nat} {f : State → State} {s : State} (h : (f s).bus.streak = s.bus.streak)
    (hs : streakIs n s) : streakIs n (whenRunning f s) :=
  whenRunning_keeps (fun _ => streakIs_congr h) hs

theorem whenOperating_streakIs {n : Nat} {l : LinkId} {f : State → State} {s : State}
    (h : (f s).bus.streak = s.bus.streak) (hs : streakIs n s) : streakIs n (whenOperating l f s) :=
  whenOperating_keeps (fun _ => streakIs_congr h) hs

/-- R36: the counter changes at grants alone. The commands left to the last case are executions of requests. -/
theorem effect_streakIs {n : Nat} {i : Instr} {s : State} (hg : i ≠ .grant) (hr : i ≠ .reset) (hs : streakIs n s) :
    streakIs n (effect i s) := by
  cases i with
  | reset => exact absurd rfl hr
  | grant => exact absurd rfl hg
  | resetRelease => exact streakIs_congr (releaseEvent_streak s) hs
  | strapSampling atn ld => exact streakIs_congr (strapEvent_streak atn ld s) hs
  | tick trg => exact whenRunning_streakIs (by simp) hs
  | dueCountdownExpiry c => exact whenRunning_streakIs (by simp) hs
  | leaseExpiry => exact whenRunning_streakIs (by simp) hs
  | pulseTimerTick v => exact whenRunning_streakIs (by simp) hs
  | triggerEdgeQualified t => exact whenRunning_streakIs (by simp) hs
  | exchangeCompletion sdi => exact whenRunning_streakIs (exchangeEvent_streak sdi s) hs
  | frameHeaderReceived l check => exact whenOperating_streakIs (by simp) hs
  | longFrameReceived l crcLow => exact whenOperating_streakIs (by simp) hs
  | frameTimeout l => exact whenOperating_streakIs (by simp) hs
  | framing l => exact whenOperating_streakIs (by simp) hs
  | discardEnd l => exact whenOperating_streakIs (by simp) hs
  | contention l => exact whenOperating_streakIs (by simp) hs
  | lineBreak b => exact whenOperating_streakIs (by simp) hs
  | turn l p0 p1 => exact whenOperating_streakIs (by simp) hs
  | noop l p0 p1 => exact whenOperating_streakIs (by simp) hs
  | fill l payload => exact whenOperating_streakIs (by simp) hs
  | receivedByte l line => exact whenOperating_streakIs (by simp) hs
  | returnToMark l => exact whenOperating_streakIs (by simp) hs
  | guardEnd l => exact whenOperating_keeps (turnKeeps_streakIs n).guardEnd hs
  | replyDelivery l => exact whenOperating_keeps (turnKeeps_streakIs n).delivery hs
  | _ => exact whenOperating_keeps (turnKeeps_streakIs n).composeIf hs

/-- R36: no command but GRANT and RESET moves the counter. -/
theorem exec_streak_of_not_grant {i : Instr} {s t : State} (hg : i ≠ .grant) (hr : i ≠ .reset)
    (h : exec i s = .next t) : t.bus.streak = s.bus.streak := by
  rw [exec_eq_effect] at h
  injection h with h
  rw [← h]
  exact effect_streakIs hg hr rfl

/-- Settles O15: a grant leaves `streakAfter`, which has a value for each case of R36, and every other command but
RESET keeps the counter. -/
theorem streakCountsPriorityGrants : Obligations.StreakCountsPriorityGrants := by
  unfold Obligations.StreakCountsPriorityGrants
  refine ⟨fun s t c hr hb hc hs ht => ?_, fun i s t hg hr ht => exec_streak_of_not_grant hg hr ht⟩
  rw [exec_grant_streak hr hb hc hs ht]
  exact ⟨streakAfter_of_other_due, fun _ => streakAfter_of_no_other_due, streakAfter_of_due_grant⟩

end Sys2Proof.Machine

/-! PROOFS. O18: the tier and the idle count at a motion success (R42, R43). What the scheduler's own function does to
a poll comes first, one equation for each case of R42, then that the command's completion hands the channel's poll to
it. -/

namespace Sys2Proof.Machine

/-! ## The scheduler's move -/

/-- R42: motion clears the idle count, and takes the tier to T0 unless one is forced. -/
theorem tierMove_of_motion (cs : ChannelSettings) (p : Poll) :
    tierMove cs true p = { p with tier := if cs.forcedTier = none then .t0 else p.tier, idleCount := 0 } := rfl

/-- R42: under a forced tier the idle count alone rises. -/
theorem tierMove_of_forced {cs : ChannelSettings} (p : Poll) (h : cs.forcedTier ≠ none) :
    tierMove cs false p = { p with idleCount := satInc Config.idleCountMax p.idleCount } := by
  obtain ⟨tier, hf⟩ := Option.ne_none_iff_exists'.1 h
  simp [tierMove, hf]

/-- R42: T3 has no downshift count, so the idle count alone rises. -/
theorem tierMove_of_t3 (cs : ChannelSettings) {p : Poll} (h : p.tier = .t3) :
    tierMove cs false p = { p with idleCount := satInc Config.idleCountMax p.idleCount } := by
  simp [tierMove, downshiftCount, h]

/-- R42: the idle count reaches the downshift count of the tier. -/
theorem tierMove_of_reached {cs : ChannelSettings} {p : Poll} {d : Nat} (hf : cs.forcedTier = none)
    (hd : downshiftCount cs p.tier = some d) (h : d ≤ satInc Config.idleCountMax p.idleCount) :
    tierMove cs false p = { p with tier := nextTier p.tier, idleCount := 0 } := by
  simp [tierMove, hf, hd, h]

/-- R42: the idle count stays below the downshift count of the tier. -/
theorem tierMove_of_below {cs : ChannelSettings} {p : Poll} {d : Nat} (hf : cs.forcedTier = none)
    (hd : downshiftCount cs p.tier = some d) (h : satInc Config.idleCountMax p.idleCount < d) :
    tierMove cs false p = { p with idleCount := satInc Config.idleCountMax p.idleCount } := by
  simp [tierMove, hf, hd, Nat.not_le.2 h]

@[simp] theorem Poll.motionDone_tier (cs : ChannelSettings) (moved : Bool) (p : Poll) :
    (Poll.motionDone cs moved p).tier = (tierMove cs moved p).tier := rfl

@[simp] theorem Poll.motionDone_idleCount (cs : ChannelSettings) (moved : Bool) (p : Poll) :
    (Poll.motionDone cs moved p).idleCount = (tierMove cs moved p).idleCount := rfl

/-- R43: the reload is by the tier that results. -/
theorem Poll.motionDone_countdown (cs : ChannelSettings) (moved : Bool) (p : Poll) :
    (Poll.motionDone cs moved p).countdown = .running (periodTicks cs (Poll.motionDone cs moved p).tier) := rfl

/-! ## At the completion -/

/-- R42: whether a motion exchange reports motion. -/
def reportsMotion (x y : BitVec 12) : Bool := decide (x ≠ 0) || decide (y ≠ 0)

theorem reportsMotion_of_nonzero {x y : BitVec 12} (h : x ≠ 0 ∨ y ≠ 0) : reportsMotion x y = true := by
  simpa [reportsMotion] using h

theorem reportsMotion_zero : reportsMotion 0 0 = false := rfl

/-- R42: a motion success moves the poll of its own channel, and no other part of the scheduler. -/
theorem motionSuccess_polls (c : ChannelId) (x y : BitVec 12) (q : Byte) (s : State) :
    (motionSuccess c x y q s).polls =
      upd s.polls c (Poll.motionDone s.settings.channels[c] (reportsMotion x y)) := by
  simp [motionSuccess, reportsMotion]

/-- R7, R10: an unmarked motion completion on an ACTIVE channel is applied as a motion success. -/
theorem applyCompletion_moved {e : Exchange} {s : State} {x y : BitVec 12} {q : Byte} (hd : e.discard = false)
    (hk : e.kind = .motion) (ha : s.channels[e.channel].state = .active) :
    applyCompletion e (.moved x y q) s = motionSuccess e.channel x y q s := by
  unfold applyCompletion applyOutcome
  rw [hd, hk, ha]
  rfl

/-- R29, R42: the scheduler's records after a completion that brings a motion success on channel `c`. -/
theorem completeExchange_moved_polls {e : Exchange} {c : ChannelId} {s : State} {x y : BitVec 12} {q : Byte}
    (hc : e.channel = c) (hd : e.discard = false) (hk : e.kind = .motion) (ha : s.channels[c].state = .active) :
    (completeExchange e (.moved x y q) s).polls =
      upd s.polls c (Poll.motionDone s.settings.channels[c] (reportsMotion x y)) := by
  subst hc
  rw [completeExchange, applyCompletion_moved hd hk (by exact ha)]
  simp [motionSuccess_polls]

/-- R29: the completing byte's command hands the completion to the channel unit. -/
theorem exchangeEvent_of_completed {e e' : Exchange} {s : State} {sdi : List (Samples 8)} {o : ExchangeOutcome}
    (he : s.bus.exchange = some e)
    (hc : clockBytes s.settings.channels[e.channel].expectedId e (bytesOnSdi sdi) = .completed e' o) :
    exchangeEvent sdi s = completeExchange e' o s := by
  unfold exchangeEvent
  rw [he]
  simp only [hc]

/-- R29: an EXCHANGE_COMPLETION command whose bytes reach the completing byte. -/
theorem exec_exchangeCompletion_of_completed {s t : State} {e e' : Exchange} {sdi : List (Samples 8)}
    {o : ExchangeOutcome} (hr : s.phase = .running) (he : s.bus.exchange = some e)
    (hc : clockBytes s.settings.channels[e.channel].expectedId e (bytesOnSdi sdi) = .completed e' o)
    (h : exec (.exchangeCompletion sdi) s = .next t) : t = completeExchange e' o s := by
  have ht : effect (.exchangeCompletion sdi) s = exchangeEvent sdi s := if_pos hr
  rw [exec_eq_effect, ht, exchangeEvent_of_completed he hc] at h
  injection h with h
  exact h.symm

/-- Settles O18: the command leaves the channel's poll as `Poll.motionDone` does, and each clause is the case of
`tierMove` that its premises name. -/
theorem motionSuccessMovesTheTier : Obligations.MotionSuccessMovesTheTier := by
  unfold Obligations.MotionSuccessMovesTheTier
  intro s t e e' sdi x y q hr he hd hk ha hc ht
  obtain ⟨hch, hkind, hdis⟩ := clockBytes_keeps.2 e' _ hc
  have hp : t.polls[e.channel] =
      Poll.motionDone s.settings.channels[e.channel] (reportsMotion x y) s.polls[e.channel] := by
    rw [exec_exchangeCompletion_of_completed hr he hc ht,
      completeExchange_moved_polls hch (hdis.trans hd) (hkind.trans hk) ha, get_upd_eq]
  rw [hp]
  refine ⟨fun hm => ?motion, ?still, ?shift, Poll.motionDone_countdown _ _ _⟩
  case motion =>
    rw [reportsMotion_of_nonzero hm, Poll.motionDone_idleCount, Poll.motionDone_tier, tierMove_of_motion]
    exact ⟨rfl, rfl⟩
  case still =>
    rintro rfl rfl hstay
    have hmove := hstay.elim (tierMove_of_forced s.polls[e.channel])
      (tierMove_of_t3 s.settings.channels[e.channel])
    rw [reportsMotion_zero, Poll.motionDone_idleCount, Poll.motionDone_tier, hmove]
    exact ⟨rfl, rfl⟩
  case shift =>
    rintro rfl rfl hf d hcount
    rw [reportsMotion_zero, Poll.motionDone_idleCount, Poll.motionDone_tier]
    refine ⟨fun hreach => ?_, fun hbelow => ?_⟩
    · rw [tierMove_of_reached hf hcount hreach]
      exact ⟨rfl, rfl⟩
    · rw [tierMove_of_below hf hcount hbelow]
      exact ⟨rfl, rfl⟩

end Sys2Proof.Machine

/-! PROOFS. O29 and O30: LEASE ACQUIRE and LEASE RELEASE (R122 to R124). A command that names a request comes to the
execution of that request; a lease request comes to a new lease, a shorter queue and a RESULT; and the holder at
execution decides which. -/

namespace Sys2Proof.Machine

/-! ## The command of a request -/

/-- R147: at a composition, the command that names the request at the head of the queue executes it. -/
theorem exec_commandOf {l : LinkId} {r : Request} {rest : List Request} {s s1 : State}
    (h : atComposition l r rest s s1) : exec (commandOf l r) s = .next (execute l r rest s1) := by
  have heff : effect (commandOf l r) s = whenOperating l (composeIf l fun _ q => decide (q = r)) s := by
    cases r <;> rfl
  rw [exec_link heff h.1, composeIf_at h (decide_eq_true rfl)]

theorem execute_eq_popped (l : LinkId) (r : Request) (rest : List Request) (s : State) :
    execute l r rest s = renewLease l (runRequest l r (popped l rest s)) := rfl

@[simp] theorem popped_lease (l : LinkId) (rest : List Request) (s : State) : (popped l rest s).lease = s.lease := rfl

/-! ## The reload -/

/-- R120, R122: a unit of the lease timeout is 100 ticks. -/
theorem leaseReload_eq (s : State) : leaseReload s = .running (100 * s.settings.leaseTimeout) :=
  congrArg Countdown.running (Nat.mul_comm _ _)

theorem renewLease_of_holder {l : LinkId} {s : State} (h : s.lease.holder = some l) :
    renewLease l s = { s with lease := { holder := some l, countdown := leaseReload s } } := by
  rw [renewLease, if_pos h, ← h]

theorem renewLease_of_not_holder {l : LinkId} {s : State} (h : s.lease.holder ≠ some l) : renewLease l s = s :=
  if_neg h

/-! ## The answer to a lease request -/

/-- R147: `s` after the request `r` at the head of link `l`'s queue has left it, with the lease left as `lease` and a
RESULT with this code in transmission. -/
def leaseAnswered (l : LinkId) (r : Request) (rest : List Request) (lease : Lease) (code : ResultCode)
    (s : State) : State :=
  { s with
    lease := lease
    links := upd s.links l fun k =>
      { k with queue := rest, tx := .sending (shortReply .result (requestKind r) code.code) } }

theorem sendResult_popped (l : LinkId) (r : Request) (rest : List Request) (lease : Lease) (code : ResultCode)
    (s : State) :
    sendResult l r code { popped l rest s with lease := lease } = leaseAnswered l r rest lease code s := by
  simp only [sendResult, send, popped, State.modLink, upd_upd, leaseAnswered]

/-- R122: the reload of a lease that an answer leaves with the requesting link. -/
theorem renewLease_leaseAnswered_holder {l : LinkId} {r : Request} {rest : List Request} {lease : Lease}
    {code : ResultCode} {s : State} (h : lease.holder = some l) :
    renewLease l (leaseAnswered l r rest lease code s) =
      leaseAnswered l r rest { holder := some l, countdown := leaseReload s } code s :=
  renewLease_of_holder h

theorem renewLease_leaseAnswered_not_holder {l : LinkId} {r : Request} {rest : List Request} {lease : Lease}
    {code : ResultCode} {s : State} (h : lease.holder ≠ some l) :
    renewLease l (leaseAnswered l r rest lease code s) = leaseAnswered l r rest lease code s :=
  renewLease_of_not_holder h

/-! ## LEASE ACQUIRE -/

/-- R123: the lease is FREE. -/
theorem runLeaseAcquire_of_free {l : LinkId} {rest : List Request} {s : State} (h : s.lease.holder = none) :
    runLeaseAcquire l (popped l rest s) =
      leaseAnswered l .leaseAcquire rest { holder := some l, countdown := leaseReload s } .ok s := by
  simp only [runLeaseAcquire, popped_lease, h]
  exact sendResult_popped l _ rest _ _ s

/-- R123: the link holds the lease already. -/
theorem runLeaseAcquire_of_holder {l : LinkId} {rest : List Request} {s : State} (h : s.lease.holder = some l) :
    runLeaseAcquire l (popped l rest s) = leaseAnswered l .leaseAcquire rest s.lease .ok s := by
  simp only [runLeaseAcquire, popped_lease, h, if_true]
  exact sendResult_popped l _ rest _ _ s

/-- R123: another link holds the lease. -/
theorem runLeaseAcquire_of_other {l h : LinkId} {rest : List Request} {s : State} (hh : s.lease.holder = some h)
    (hne : h ≠ l) :
    runLeaseAcquire l (popped l rest s) = leaseAnswered l .leaseAcquire rest s.lease .leaseHeld s := by
  simp only [runLeaseAcquire, popped_lease, hh, if_neg hne]
  exact sendResult_popped l _ rest _ _ s

/-- R122, R123: a LEASE ACQUIRE that is granted leaves the link as the holder, with the countdown loaded. -/
theorem execute_leaseAcquire_granted {l : LinkId} {rest : List Request} {s : State}
    (h : s.lease.holder = none ∨ s.lease.holder = some l) :
    execute l .leaseAcquire rest s =
      leaseAnswered l .leaseAcquire rest { holder := some l, countdown := leaseReload s } .ok s := by
  rw [execute_eq_popped, runRequest]
  obtain hfree | hown := h
  · rw [runLeaseAcquire_of_free hfree, renewLease_leaseAnswered_holder rfl]
  · rw [runLeaseAcquire_of_holder hown, renewLease_leaseAnswered_holder hown]

/-- R123: a LEASE ACQUIRE that another holder keeps out leaves the lease as it is. -/
theorem execute_leaseAcquire_held {l h : LinkId} {rest : List Request} {s : State}
    (hh : s.lease.holder = some h) (hne : h ≠ l) :
    execute l .leaseAcquire rest s = leaseAnswered l .leaseAcquire rest s.lease .leaseHeld s := by
  rw [execute_eq_popped, runRequest, runLeaseAcquire_of_other hh hne,
    renewLease_leaseAnswered_not_holder (by simpa [hh] using hne)]

/-- R123: whoever holds the lease, a LEASE ACQUIRE touches the lease and the links alone. -/
theorem execute_leaseAcquire_eq (l : LinkId) (rest : List Request) (s : State) :
    execute l .leaseAcquire rest s =
      { s with
        lease := (execute l .leaseAcquire rest s).lease
        links := (execute l .leaseAcquire rest s).links } := by
  cases hh : s.lease.holder with
  | none => rw [execute_leaseAcquire_granted (.inl hh)]; rfl
  | some h =>
    by_cases hl : h = l
    · rw [execute_leaseAcquire_granted (.inr (hl ▸ hh))]; rfl
    · rw [execute_leaseAcquire_held hh hl]; rfl

/-- Settles O29: the command is the execution of the request, and each clause is the case of R123 that its premise
names. -/
theorem leaseAcquireFollowsTheHolder : Obligations.LeaseAcquireFollowsTheHolder := by
  unfold Obligations.LeaseAcquireFollowsTheHolder
  intro l rest s s1 hat
  refine ⟨_, exec_commandOf hat, fun hgrant => ?granted, fun h hh hne => ?held, execute_leaseAcquire_eq l rest s1⟩
  case granted =>
    rw [execute_leaseAcquire_granted hgrant, leaseReload_eq]
    exact ⟨rfl, rfl⟩
  case held =>
    rw [execute_leaseAcquire_held hh hne]
    exact ⟨rfl, rfl⟩

/-! ## LEASE RELEASE -/

/-- R124: the link holds the lease. -/
theorem runLeaseRelease_of_holder {l : LinkId} {rest : List Request} {s : State} (h : s.lease.holder = some l) :
    runLeaseRelease l (popped l rest s) =
      leaseAnswered l .leaseRelease rest { holder := none, countdown := .stopped } .ok s :=
  (if_pos h).trans (sendResult_popped l _ rest _ _ s)

/-- R124: the link does not hold the lease. -/
theorem runLeaseRelease_of_not_holder {l : LinkId} {rest : List Request} {s : State} (h : s.lease.holder ≠ some l) :
    runLeaseRelease l (popped l rest s) = leaseAnswered l .leaseRelease rest s.lease .notHolder s :=
  (if_neg h).trans (sendResult_popped l _ rest _ _ s)

/-- R122, R124: the holder's LEASE RELEASE leaves the lease FREE, and no reload follows it. -/
theorem execute_leaseRelease_released {l : LinkId} {rest : List Request} {s : State}
    (h : s.lease.holder = some l) :
    execute l .leaseRelease rest s =
      leaseAnswered l .leaseRelease rest { holder := none, countdown := .stopped } .ok s := by
  rw [execute_eq_popped, runRequest, runLeaseRelease_of_holder h,
    renewLease_leaseAnswered_not_holder (by simp)]

/-- R124: any other link's LEASE RELEASE leaves the lease as it is. -/
theorem execute_leaseRelease_refused {l : LinkId} {rest : List Request} {s : State}
    (h : s.lease.holder ≠ some l) :
    execute l .leaseRelease rest s = leaseAnswered l .leaseRelease rest s.lease .notHolder s := by
  rw [execute_eq_popped, runRequest, runLeaseRelease_of_not_holder h,
    renewLease_leaseAnswered_not_holder h]

/-- R124: whoever holds the lease, a LEASE RELEASE touches the lease and the links alone. -/
theorem execute_leaseRelease_eq (l : LinkId) (rest : List Request) (s : State) :
    execute l .leaseRelease rest s =
      { s with
        lease := (execute l .leaseRelease rest s).lease
        links := (execute l .leaseRelease rest s).links } := by
  by_cases h : s.lease.holder = some l
  · rw [execute_leaseRelease_released h]; rfl
  · rw [execute_leaseRelease_refused h]; rfl

/-- Settles O30: the command is the execution of the request, and each clause is the case of R124 that its premise
names. -/
theorem leaseReleaseFollowsTheHolder : Obligations.LeaseReleaseFollowsTheHolder := by
  unfold Obligations.LeaseReleaseFollowsTheHolder
  intro l rest s s1 hat
  refine ⟨_, exec_commandOf hat, fun hown => ?released, fun hother => ?refused, execute_leaseRelease_eq l rest s1⟩
  case released =>
    rw [execute_leaseRelease_released hown]
    exact ⟨rfl, rfl⟩
  case refused =>
    rw [execute_leaseRelease_refused hother]
    exact ⟨rfl, rfl⟩

end Sys2Proof.Machine

/-! PROOFS. O1, O2 and O4: a step, every command's answer, and RESET. -/

namespace Sys2Proof.Machine

/-! ## A step -/

/-- Settles O1: `step` is a match on the queue, and nothing else. -/
theorem stepRunsTheFrontCommand : Obligations.StepRunsTheFrontCommand := by
  unfold Obligations.StepRunsTheFrontCommand
  refine ⟨fun _ _ _ => rfl, fun s hq => ?_⟩
  rw [step, hq]

/-- The commands that wait are those of `q`. -/
def pendingIs (q : List Instr) (s : State) : Prop := s.pending = q

theorem pendingIs_congr {q : List Instr} {s t : State} (h : t.pending = s.pending) (hs : pendingIs q s) :
    pendingIs q t := h.trans hs

theorem turnKeeps_pendingIs (q : List Instr) : TurnKeeps (pendingIs q) fun _ => pendingIs q where
  guard _ _ _ _ h := h
  deliver _ _ _ _ _ := pendingIs_congr (by simp)
  execute _ _ _ _ _ _ := pendingIs_congr (by simp)
  closing _ _ _ := pendingIs_congr (by simp)
  turn _ _ _ := pendingIs_congr (by simp)
  endTurn _ _ _ := pendingIs_congr (by simp)

theorem releaseEvent_pending (s : State) : (releaseEvent s).pending = s.pending := by
  unfold releaseEvent
  split <;> rfl

theorem strapEvent_pending (atn ld : BitVec 4) (s : State) : (strapEvent atn ld s).pending = s.pending := by
  unfold strapEvent
  split
  · simp [sampleStraps]
  · rfl
  · rfl

theorem whenRunning_pendingIs {q : List Instr} {f : State → State} {s : State} (h : (f s).pending = s.pending)
    (hs : pendingIs q s) : pendingIs q (whenRunning f s) :=
  whenRunning_keeps (fun _ => pendingIs_congr h) hs

theorem whenOperating_pendingIs {q : List Instr} {l : LinkId} {f : State → State} {s : State}
    (h : (f s).pending = s.pending) (hs : pendingIs q s) : pendingIs q (whenOperating l f s) :=
  whenOperating_keeps (fun _ => pendingIs_congr h) hs

/-- No command touches the queue of commands. The commands left to the last case are executions of requests. -/
theorem effect_pendingIs {q : List Instr} {i : Instr} {s : State} (hs : pendingIs q s) : pendingIs q (effect i s) := by
  cases i with
  | reset => exact hs
  | resetRelease => exact pendingIs_congr (releaseEvent_pending s) hs
  | strapSampling atn ld => exact pendingIs_congr (strapEvent_pending atn ld s) hs
  | tick trg => exact whenRunning_pendingIs (by simp) hs
  | dueCountdownExpiry c => exact whenRunning_pendingIs (by simp) hs
  | leaseExpiry => exact whenRunning_pendingIs (by simp) hs
  | pulseTimerTick v => exact whenRunning_pendingIs (by simp) hs
  | triggerEdgeQualified t => exact whenRunning_pendingIs (by simp) hs
  | grant => exact whenRunning_pendingIs (by simp) hs
  | exchangeCompletion sdi => exact whenRunning_pendingIs (by simp) hs
  | frameHeaderReceived l check => exact whenOperating_pendingIs (by simp) hs
  | longFrameReceived l crcLow => exact whenOperating_pendingIs (by simp) hs
  | frameTimeout l => exact whenOperating_pendingIs (by simp) hs
  | framing l => exact whenOperating_pendingIs (by simp) hs
  | discardEnd l => exact whenOperating_pendingIs (by simp) hs
  | contention l => exact whenOperating_pendingIs (by simp) hs
  | lineBreak b => exact whenOperating_pendingIs (by simp) hs
  | turn l p0 p1 => exact whenOperating_pendingIs (by simp) hs
  | noop l p0 p1 => exact whenOperating_pendingIs (by simp) hs
  | fill l payload => exact whenOperating_pendingIs (by simp) hs
  | receivedByte l line => exact whenOperating_pendingIs (by simp) hs
  | returnToMark l => exact whenOperating_pendingIs (by simp) hs
  | guardEnd l => exact whenOperating_keeps (turnKeeps_pendingIs q).guardEnd hs
  | replyDelivery l => exact whenOperating_keeps (turnKeeps_pendingIs q).delivery hs
  | _ => exact whenOperating_keeps (turnKeeps_pendingIs q).composeIf hs

/-- Settles O2: a command answers `effect`, and `effect` keeps the queue. -/
theorem everyCommandGoesOnAndKeepsTheQueue : Obligations.EveryCommandGoesOnAndKeepsTheQueue := by
  unfold Obligations.EveryCommandGoesOnAndKeepsTheQueue
  exact fun i s => ⟨_, exec_eq_effect i s, effect_pendingIs rfl⟩

/-! ## Reset -/

/-- A file of registers that all hold `x` holds it at each place. -/
theorem get_replicate {α : Type} {n : Nat} (x : α) (i : Fin n) : (Vector.replicate n x)[i] = x := by
  simp

/-- Settles O4: each register file of the reset state is one value repeated, and a release changes the phase alone. -/
theorem resetReturnsEveryBlock : Obligations.ResetReturnsEveryBlock := by
  unfold Obligations.ResetReturnsEveryBlock
  refine ⟨fun s => ⟨_, exec_eq_effect _ _, rfl, rfl, fun c => ?channel, rfl, fun v => ?view, fun i => ?trigger,
    fun i => get_replicate none i, rfl, rfl⟩, fun s hs => ?release⟩
  case channel =>
    exact ⟨get_replicate Channel.reset c, get_replicate Poll.reset c, get_replicate ChannelSettings.reset c⟩
  case view =>
    have hv : (effect .reset s).views[v] = View.reset := get_replicate View.reset v
    have ha : (effect .reset s).attention[v] = Attention.reset := get_replicate Attention.reset v
    rw [hv, ha]
    exact ⟨rfl, rfl, fun c => get_replicate none c, rfl, rfl, rfl, rfl, get_replicate Ring.reset v,
      get_replicate Link.reset v⟩
  case trigger =>
    have ht : (effect .reset s).triggers[i] = Trigger.reset := get_replicate Trigger.reset i
    rw [ht]
    exact ⟨rfl, rfl, rfl, rfl, get_replicate TriggerSettings.reset i⟩
  case release =>
    rw [exec_eq_effect]
    show Host.Outcome.next (releaseEvent s) = _
    rw [releaseEvent, hs]

end Sys2Proof.Machine

/-! PROOFS. O56: the lease stays consistent with its countdown, the phase and the enabled links (R120). -/

namespace Sys2Proof.Machine

/-! ## The lease, the phase and the straps alone matter -/

theorem leaseConsistent_congr {s t : State} (hl : t.lease = s.lease) (hp : t.phase = s.phase)
    (hst : t.straps = s.straps) (h : leaseConsistent s) : leaseConsistent t := by
  unfold leaseConsistent linkEnabled at *
  rw [hl, hp, hst]
  exact h

/-- R120: a FREE lease with its countdown stopped is consistent. -/
theorem leaseConsistent_of_free {s : State} (h : s.lease = { holder := none, countdown := .stopped }) :
    leaseConsistent s := by
  unfold leaseConsistent
  rw [h]
  exact ⟨⟨fun _ => rfl, fun _ => rfl⟩, fun _ => rfl, fun l hl => by cases hl⟩

/-- R120: a lease that an enabled link holds, with its countdown not stopped, is consistent after strap sampling. -/
theorem leaseConsistent_of_held {s : State} {l : LinkId} (hh : s.lease.holder = some l)
    (hc : s.lease.countdown ≠ .stopped) (hr : s.phase = .running) (he : linkEnabled s l = true) :
    leaseConsistent s := by
  refine ⟨⟨fun h => ?_, fun h => absurd h hc⟩, fun h => absurd hr h, fun k hk => ?_⟩
  · rw [hh] at h; cases h
  · rw [hh] at hk; cases hk; exact he

theorem running_of_operating {s : State} {l : LinkId} (h : operating s l = true) : s.phase = .running := by
  unfold operating at h
  exact of_decide_eq_true (Bool.and_eq_true_iff.1 h).1

theorem linkEnabled_of_operating {s : State} {l : LinkId} (h : operating s l = true) : linkEnabled s l = true :=
  (Bool.and_eq_true_iff.1 h).2

/-! ## What an event does to the lease -/

theorem renewLease_keeps_leaseConsistent {l : LinkId} {s : State} (h : leaseConsistent s) :
    leaseConsistent (renewLease l s) := by
  by_cases hh : s.lease.holder = some l
  · rw [renewLease_of_holder hh]
    refine ⟨⟨fun e => (by cases e), fun e => (by cases e)⟩, fun hp => ?_, fun k hk => ?_⟩
    · rw [h.2.1 hp] at hh; cases hh
    · cases hk; exact h.2.2 l hh
  · rw [renewLease_of_not_holder hh]; exact h

theorem loseLease_keeps_leaseConsistent {s : State} (h : leaseConsistent s) : leaseConsistent (loseLease s) := by
  unfold loseLease
  split
  · exact h
  · exact leaseConsistent_of_free rfl

theorem leaseExpiryEvent_keeps_leaseConsistent {s : State} (h : leaseConsistent s) :
    leaseConsistent (leaseExpiryEvent s) := by
  unfold leaseExpiryEvent
  split
  · exact leaseConsistent_congr (by simp) (by simp) (by simp) (loseLease_keeps_leaseConsistent h)
  · exact h
  · exact h

theorem Countdown.tick_eq_stopped_iff (c : Countdown) : c.tick = .stopped ↔ c = .stopped := by
  cases c with
  | stopped => exact Iff.rfl
  | expiring => exact Iff.rfl
  | running n => by_cases h : 2 ≤ n <;> simp [Countdown.tick, h]

theorem settleTick_keeps_leaseConsistent {s : State} (h : leaseConsistent s) : leaseConsistent (settleTick s) := by
  refine leaseConsistent_congr (s := leaseExpiryEvent (allChannels.foldl (fun s c => dueExpiryEvent c s) s))
    (by simp [settleTick]) (by simp) (by simp) (leaseExpiryEvent_keeps_leaseConsistent ?_)
  exact leaseConsistent_congr (by simp) (by simp) (by simp) h

theorem advance_keeps_leaseConsistent {trg : BitVec 4} {s : State} (h : leaseConsistent s) :
    leaseConsistent (advance trg s) := by
  obtain ⟨hiff, hphase, hlink⟩ := h
  exact ⟨hiff.trans (Countdown.tick_eq_stopped_iff _).symm, hphase, hlink⟩

theorem tickEvent_keeps_leaseConsistent {trg : BitVec 4} {s : State} (h : leaseConsistent s) :
    leaseConsistent (tickEvent trg s) :=
  advance_keeps_leaseConsistent (settleTick_keeps_leaseConsistent h)

theorem runLeaseAcquire_keeps_leaseConsistent {l : LinkId} {s : State} (ho : operating s l = true)
    (h : leaseConsistent s) : leaseConsistent (runLeaseAcquire l s) := by
  unfold runLeaseAcquire
  split
  · refine leaseConsistent_congr (by simp) (by simp) (by simp)
      (leaseConsistent_of_held (s := { s with lease := { holder := some l, countdown := leaseReload s } }) rfl
        (fun e => by cases e) (running_of_operating ho) (linkEnabled_of_operating ho))
  · split <;> exact leaseConsistent_congr (by simp) (by simp) (by simp) h

theorem runLeaseRelease_keeps_leaseConsistent {l : LinkId} {s : State} (h : leaseConsistent s) :
    leaseConsistent (runLeaseRelease l s) := by
  unfold runLeaseRelease
  split
  · exact leaseConsistent_of_free (by simp)
  · exact leaseConsistent_congr (by simp) (by simp) (by simp) h

theorem runRequest_keeps_leaseConsistent {l : LinkId} {r : Request} {s : State} (ho : operating s l = true)
    (h : leaseConsistent s) : leaseConsistent (runRequest l r s) := by
  cases r with
  | leaseAcquire => exact runLeaseAcquire_keeps_leaseConsistent ho h
  | leaseRelease => exact runLeaseRelease_keeps_leaseConsistent h
  | _ => exact leaseConsistent_congr (by simp [runRequest]) (by simp) (by simp) h

theorem execute_keeps_leaseConsistent {l : LinkId} {r : Request} {rest : List Request} {s : State}
    (ho : operating s l = true) (h : leaseConsistent s) : leaseConsistent (execute l r rest s) :=
  renewLease_keeps_leaseConsistent (runRequest_keeps_leaseConsistent (s := popped l rest s) ho h)

theorem headerEvent_keeps_leaseConsistent {l : LinkId} {x y z check : Byte} {s : State} (h : leaseConsistent s) :
    leaseConsistent (headerEvent l x y z check s) := by
  unfold headerEvent
  dsimp only
  split
  · exact renewLease_keeps_leaseConsistent h
  · exact h

theorem receiveByte_keeps_leaseConsistent {l : LinkId} {b : Byte} {s : State} (h : leaseConsistent s) :
    leaseConsistent (receiveByte l b s) := by
  unfold receiveByte
  split
  case h_2 =>
    split
    · exact headerEvent_keeps_leaseConsistent h
    · exact h
  case h_4 => split <;> exact h
  all_goals exact h

theorem takeCharacter_keeps_leaseConsistent {l : LinkId} {line : Samples 10} {s : State} (h : leaseConsistent s) :
    leaseConsistent (takeCharacter l line s) := by
  unfold takeCharacter
  split
  · split
    · exact receiveByte_keeps_leaseConsistent h
    · exact h
  · exact h

theorem fourthByte_keeps_leaseConsistent {l : LinkId} {b : Byte} {s : State} (h : leaseConsistent s) :
    leaseConsistent (fourthByte l b s) := by
  unfold fourthByte
  split
  · exact headerEvent_keeps_leaseConsistent h
  · exact h

theorem breakTaken_keeps_leaseConsistent {l : LinkId} {s : State} (h : leaseConsistent s) :
    leaseConsistent (breakTaken l s) := by
  have hs : leaseConsistent ((abortTransmission l s).modLink l Link.broken) :=
    leaseConsistent_congr (by simp) (by simp) (by simp) h
  unfold breakTaken
  refine leaseConsistent_congr (attendAll_frame _).2.2.2.2.2.2.2.2.2.2.2.1 (by simp) (by simp) ?_
  split
  · exact loseLease_keeps_leaseConsistent hs
  · exact hs

theorem breakEvent_keeps_leaseConsistent {l : LinkId} {order : BreakOrder} {s : State} (h : leaseConsistent s) :
    leaseConsistent (breakEvent l order s) := by
  by_cases hr : s.links[l].receiver = .awaitMark true
  · unfold breakEvent; rw [hr]; exact h
  · rw [breakEvent_taken hr]
    exact breakTaken_keeps_leaseConsistent (leaseConsistent_congr (by simp) (by simp) (by simp) h)

/-- R159: strap sampling finds the lease FREE, so no link that the straps disable holds it. -/
theorem sampleStraps_keeps_leaseConsistent {st : Straps} {ld : BitVec 4} {s : State} (hp : s.phase ≠ .running)
    (h : leaseConsistent s) : leaseConsistent (sampleStraps st ld s) := by
  have hfree : s.lease = { holder := none, countdown := .stopped } := by
    have hn := h.2.1 hp
    have hc := h.1.1 hn
    cases hl : s.lease
    simp_all
  exact leaseConsistent_of_free (by simpa [sampleStraps] using hfree)

theorem leaseConsistent_reset (q : List Instr) : leaseConsistent { State.reset with pending := q } :=
  leaseConsistent_of_free rfl

/-! ## Every step -/

theorem turnKeeps_leaseConsistent : TurnKeeps leaseConsistent fun _ => leaseConsistent where
  guard _ _ _ _ h := h
  deliver _ _ _ _ _ := leaseConsistent_congr (by simp) (by simp) (by simp)
  execute _ _ _ _ ho _ := execute_keeps_leaseConsistent ho
  closing _ _ _ := leaseConsistent_congr (by simp) (by simp) (by simp)
  turn _ _ _ := leaseConsistent_congr (by simp) (by simp) (by simp)
  endTurn _ _ _ := leaseConsistent_congr (by simp) (by simp) (by simp)

theorem commandsKeep_leaseConsistent : CommandsKeep leaseConsistent fun _ => leaseConsistent where
  turns := turnKeeps_leaseConsistent
  pending _ _ h := h
  reset := leaseConsistent_reset
  release _ hp h := ⟨h.1, fun _ => h.2.1 (by rw [hp]; exact Phase.noConfusion), h.2.2⟩
  straps _ _ s hp h := sampleStraps_keeps_leaseConsistent (s := { s with tickCount := s.tickCount + 1 })
    (show s.phase ≠ .running by rw [hp]; exact Phase.noConfusion) h
  tick _ _ _ := tickEvent_keeps_leaseConsistent
  due _ _ _ := leaseConsistent_congr (by simp) (by simp) (by simp)
  lease _ _ := leaseExpiryEvent_keeps_leaseConsistent
  pulse _ _ _ := leaseConsistent_congr (by simp) (by simp) (by simp)
  confirm _ _ _ := leaseConsistent_congr (by simp) (by simp) (by simp)
  grant _ _ := leaseConsistent_congr (by simp) (by simp) (by simp)
  exchange _ _ _ := leaseConsistent_congr (by simp) (by simp) (by simp)
  character _ _ _ _ := takeCharacter_keeps_leaseConsistent
  fourthByte _ _ _ _ := fourthByte_keeps_leaseConsistent
  lastCrcByte _ _ _ _ := leaseConsistent_congr (by simp) (by simp) (by simp)
  timeout _ _ _ h := h
  framing _ _ _ := leaseConsistent_congr (by simp) (by simp) (by simp)
  endDiscard _ _ _ h := h
  contention _ _ _ := leaseConsistent_congr (by simp) (by simp) (by simp)
  lineBreak _ _ _ _ := breakEvent_keeps_leaseConsistent
  returnToMark _ _ _ h := h

/-- Settles O56: every change of which a command is made keeps the lease consistent. -/
theorem stepKeepsTheLeaseConsistent : Obligations.StepKeepsTheLeaseConsistent := by
  unfold Obligations.StepKeepsTheLeaseConsistent
  exact fun _ _ => commandsKeep_leaseConsistent.step

end Sys2Proof.Machine

/-! PROOFS. Properties of each view (O54 and O59 are of this form, and so is that the settings of a view stay): the
changes that an event can make to a view, and that a property which each of them keeps holds of every view after every
step. -/

namespace Sys2Proof.Machine

/-- Each view has its property. -/
def everyView (P : LinkId → View → Prop) (s : State) : Prop := ∀ v : LinkId, P v s.views[v]

/-- The changes that the lease and the completions of exchanges make to a view, each from a view that has the property
to one that has it. -/
structure PartEventsKeep (P : LinkId → View → Prop) : Prop where
  notice : ∀ i v lost again, P i v → P i { v with leaseLost := lost, lostAgain := again }
  accumulate : ∀ i c x y q v, P i v → P i (v.accumulate c x y q)
  countGap : ∀ i c v, P i v → P i (v.countGap c)

/-- Those, and the changes that the reports and the VIEW RESET make. -/
structure ViewEventsKeep (P : LinkId → View → Prop) : Prop extends PartEventsKeep P where
  compose : ∀ i mask changedOnly v, P i v →
    P i { v with report := some ((includedAccounts v mask changedOnly).map (reportLine v.settings.width)) }
  deliver : ∀ i lines v, v.report = some lines → P i v →
    P i { v with accounts := lines.foldl applyLine v.accounts, report := none }
  abort : ∀ i v, P i v → P i { v with report := none }
  clear : ∀ i v, P i v → P i v.clear

/-- All the changes that events make to a view, with strap sampling and an accepted write. -/
structure ViewKeeps (P : LinkId → View → Prop) : Prop extends ViewEventsKeep P where
  reset : ∀ i, P i View.reset
  first : ∀ st i v, P i v → P i (firstView st i v)
  apply : ∀ i own v, P i v → P i (View.apply own v)

section
variable {P : LinkId → View → Prop}

theorem everyView_congr {s t : State} (h : t.views = s.views) (hs : everyView P s) : everyView P t := by
  unfold everyView
  rw [h]
  exact hs

theorem everyView_modView {s : State} {l : LinkId} {f : View → View} (hf : P l s.views[l] → P l (f s.views[l]))
    (hs : everyView P s) : everyView P (s.modView l f) := by
  intro v
  rw [State.modView_views]
  by_cases hv : v = l
  · subst hv; rw [get_upd_eq]; exact hf (hs v)
  · rw [get_upd_ne hv]; exact hs v

theorem everyView_attendAll {s : State} (hs : everyView P s) : everyView P (attendAll s) := hs

/-! ## Events of the part -/

theorem everyView_loseLease (hP : PartEventsKeep P) {s : State} (hs : everyView P s) : everyView P (loseLease s) := by
  unfold loseLease
  split
  · exact hs
  · exact everyView_modView (s := { s with lease := { holder := none, countdown := .stopped } })
      (hP.notice _ _ _ _) hs

theorem everyView_leaseExpiryEvent (hP : PartEventsKeep P) {s : State} (hs : everyView P s) :
    everyView P (leaseExpiryEvent s) := by
  unfold leaseExpiryEvent
  split
  · exact everyView_congr (by simp) (everyView_loseLease hP hs)
  · exact hs
  · exact hs

theorem advance_views (trg : BitVec 4) (s : State) : (advance trg s).views = s.views := rfl

theorem everyView_tickEvent (hP : PartEventsKeep P) {trg : BitVec 4} {s : State} (hs : everyView P s) :
    everyView P (tickEvent trg s) := by
  refine everyView_congr (s := leaseExpiryEvent (allChannels.foldl (fun s c => dueExpiryEvent c s) s)) ?_
    (everyView_leaseExpiryEvent hP (everyView_congr (by simp) hs))
  rw [tickEvent, advance_views]
  simp [settleTick]

theorem everyView_sampleStraps (hP : ViewKeeps P) {st : Straps} {ld : BitVec 4} {s : State} (hs : everyView P s) :
    everyView P (sampleStraps st ld s) := by
  intro v
  simpa [sampleStraps] using hP.first st v _ (hs v)

theorem everyView_accumulateAll (hP : PartEventsKeep P) {c : ChannelId} {x y : BitVec 12} {q : Byte} {s : State}
    (hs : everyView P s) : everyView P (accumulateAll c x y q s) := by
  intro v
  simpa [accumulateAll] using hP.accumulate _ c x y q _ (hs v)

theorem everyView_gapAll (hP : PartEventsKeep P) {c : ChannelId} {s : State} (hs : everyView P s) :
    everyView P (gapAll c s) := by
  intro v
  simpa [gapAll] using hP.countGap _ c _ (hs v)

theorem everyView_motionSuccess (hP : PartEventsKeep P) {c : ChannelId} {x y : BitVec 12} {q : Byte} {s : State}
    (hs : everyView P s) : everyView P (motionSuccess c x y q s) :=
  everyView_congr (s := accumulateAll c x y q s) (by simp [motionSuccess, accumulateAll])
    (everyView_accumulateAll hP hs)

theorem everyView_motionFailure (hP : PartEventsKeep P) {c : ChannelId} {cause : FaultCause} {s : State}
    (hs : everyView P s) : everyView P (motionFailure c cause s) :=
  everyView_congr (s := gapAll c s) (by simp [motionFailure, gapAll]) (everyView_gapAll hP hs)

theorem everyView_applyCompletion (hP : PartEventsKeep P) {e : Exchange} {o : ExchangeOutcome} {s : State}
    (hs : everyView P s) : everyView P (applyCompletion e o s) := by
  unfold applyCompletion
  split
  · unfold discardedCompletion
    split
    · exact everyView_gapAll hP hs
    · exact hs
  · unfold applyOutcome
    split
    case h_5 => exact everyView_motionSuccess hP hs
    case h_6 => exact everyView_motionFailure hP hs
    all_goals exact everyView_congr (by simp) hs

theorem everyView_exchangeEvent (hP : PartEventsKeep P) {sdi : List (Samples 8)} {s : State} (hs : everyView P s) :
    everyView P (exchangeEvent sdi s) := by
  unfold exchangeEvent
  split
  · exact hs
  · split
    · exact hs
    · exact everyView_attendAll (everyView_applyCompletion hP
        (s := { s with bus := { s.bus with exchange := none } }) hs)

/-! ## The turn of a link -/

theorem everyView_deliverFrame (hP : ViewEventsKeep P) {l : LinkId} {kind : ReplyKind} {s : State} (hs : everyView P s) :
    everyView P (deliverFrame l kind s) := by
  cases kind with
  | motionReport =>
    show everyView P (deliverMotion l s)
    unfold deliverMotion
    split
    · exact hs
    · next lines hr =>
      exact everyView_attendAll (everyView_modView
        (f := fun v => { v with accounts := lines.foldl applyLine v.accounts, report := none })
        (hP.deliver _ lines _ hr) hs)
  | captureReport => exact everyView_congr (by simp [deliverFrame]) hs
  | linkStatusData =>
    show everyView P (deliverStatus l s)
    unfold deliverStatus
    split
    · exact hs
    · next r hr =>
      exact everyView_attendAll (everyView_modView (s := s.modLink l (Link.takeStatus r))
        (f := View.noticeTold r.notice) (hP.notice _ _ _ _) hs)
  | settingData => exact hs
  | result => exact hs
  | errorReport => exact hs
  | turn => exact hs

theorem applyWrite_views (l : LinkId) (w : AcceptedWrite) (s : State) :
    (applyWrite l w s).views = upd s.views l (View.apply w.left.own) := by
  simp [applyWrite, applyOwn]

theorem everyView_runMotionRead (hP : ViewEventsKeep P) {l : LinkId} {mask options : Byte} {s : State}
    (hs : everyView P s) : everyView P (runMotionRead l mask options s) := by
  unfold runMotionRead
  split
  · exact everyView_congr (send_frame l _ _).2.2.2.2.2.2.2.1 (everyView_modView
      (f := fun w => { w with report := some _ }) (hP.compose _ mask (decide (options = 1)) s.views[l]) hs)
  · exact everyView_congr (by simp) hs

theorem everyView_runViewReset (hP : ViewEventsKeep P) {l : LinkId} {s : State} (hs : everyView P s) :
    everyView P (runViewReset l s) :=
  everyView_congr (by simp [runViewReset]) (everyView_modView (hP.clear _ s.views[l]) hs)

theorem everyView_runRequest (hP : ViewKeeps P) {l : LinkId} {r : Request} {s : State} (hs : everyView P s) :
    everyView P (runRequest l r s) := by
  cases r with
  | motionRead mask options => exact everyView_runMotionRead hP.toViewEventsKeep hs
  | viewReset => exact everyView_runViewReset hP.toViewEventsKeep hs
  | settingWrite payload =>
    show everyView P (runSettingWrite l payload s)
    unfold runSettingWrite
    split
    · exact everyView_congr (by simp) hs
    · next w hw =>
      exact everyView_congr (s := s.modView l (View.apply w.left.own)) (by simp [applyWrite_views])
        (everyView_modView (hP.apply _ w.left.own s.views[l]) hs)
  | _ => exact everyView_congr (by simp [runRequest]) hs

theorem everyView_abortTransmission (hP : ViewEventsKeep P) {l : LinkId} {s : State} (hs : everyView P s) :
    everyView P (abortTransmission l s) := by
  unfold abortTransmission
  split
  case h_1 f _ =>
    cases hk : f.kind with
    | motionReport => exact everyView_modView (hP.abort _ s.views[l]) hs
    | captureReport => exact everyView_congr (by simp [abortFrame]) hs
    | linkStatusData =>
      exact everyView_modView (s := s.modLink l fun k => { k with status := none }) (hP.notice _ _ _ _) hs
    | settingData => exact hs
    | result => exact hs
    | errorReport => exact hs
    | turn => exact hs
  all_goals exact hs

theorem everyView_beforeBreak (hP : ViewEventsKeep P) {l : LinkId} {order : BreakOrder} {s : State}
    (hs : everyView P s) : everyView P (beforeBreak l order s) := by
  cases order with
  | alone => exact hs
  | afterDelivery =>
    show everyView P (deliveredOnly l s)
    unfold deliveredOnly
    split
    · next f _ =>
      exact everyView_congr (s := deliverFrame l f.kind s) rfl (everyView_deliverFrame hP hs)
    · exact hs
    · exact hs

theorem everyView_breakTaken (hP : ViewEventsKeep P) {l : LinkId} {s : State} (hs : everyView P s) :
    everyView P (breakTaken l s) := by
  have h1 : everyView P ((abortTransmission l s).modLink l Link.broken) := everyView_abortTransmission hP hs
  unfold breakTaken
  refine everyView_congr (attendAll_frame _).2.2.2.2.2.2.2.1 ?_
  split
  · exact everyView_loseLease hP.toPartEventsKeep h1
  · exact h1

theorem everyView_breakEvent (hP : ViewEventsKeep P) {l : LinkId} {order : BreakOrder} {s : State}
    (hs : everyView P s) : everyView P (breakEvent l order s) := by
  by_cases hr : s.links[l].receiver = .awaitMark true
  · unfold breakEvent; rw [hr]; exact hs
  · rw [breakEvent_taken hr]
    exact everyView_breakTaken hP (everyView_beforeBreak hP hs)

/-! ## Every step -/

theorem ViewKeeps.turnKeeps (hP : ViewKeeps P) : TurnKeeps (everyView P) fun _ => everyView P where
  guard _ _ _ _ h := h
  deliver _ _ _ _ _ := everyView_deliverFrame hP.toViewEventsKeep
  execute l r rest s _ _ h :=
    everyView_congr (s := runRequest l r (popped l rest s)) (renewLease_frame l _).2.2.2.2.2.2.2.1
      (everyView_runRequest hP (s := popped l rest s) h)
  closing _ _ _ := everyView_congr (by simp)
  turn _ _ _ := everyView_congr (by simp)
  endTurn _ _ _ := everyView_congr (by simp)

theorem everyView_reset (hP : ViewKeeps P) (q : List Instr) : everyView P { State.reset with pending := q } := by
  intro v
  rw [show ({ State.reset with pending := q } : State).views[v] = View.reset from get_replicate View.reset v]
  exact hP.reset v

theorem ViewKeeps.commandsKeep (hP : ViewKeeps P) : CommandsKeep (everyView P) fun _ => everyView P where
  turns := hP.turnKeeps
  pending _ _ h := h
  reset := everyView_reset hP
  release _ _ h := h
  straps _ _ s _ h := everyView_sampleStraps hP (s := { s with tickCount := s.tickCount + 1 }) h
  tick _ _ _ := everyView_tickEvent hP.toPartEventsKeep
  due _ _ _ := everyView_congr (by simp)
  lease _ _ := everyView_leaseExpiryEvent hP.toPartEventsKeep
  pulse _ _ _ := everyView_congr (by simp)
  confirm _ _ _ := everyView_congr (by simp)
  grant _ _ := everyView_congr (by simp)
  exchange _ _ _ := everyView_exchangeEvent hP.toPartEventsKeep
  character _ _ _ _ := everyView_congr (by simp)
  fourthByte _ _ _ _ := everyView_congr (by simp)
  lastCrcByte _ _ _ _ := everyView_congr (by simp)
  timeout _ _ _ h := h
  framing _ _ _ := everyView_congr (by simp)
  endDiscard _ _ _ h := h
  contention _ _ _ := everyView_congr (by simp)
  lineBreak _ _ _ _ := everyView_breakEvent hP.toViewEventsKeep
  returnToMark _ _ _ h := h

end

end Sys2Proof.Machine

/-! PROOFS. O23, O54 and O59: the accounts of a view, by the operations on them (R52 to R57, R80 to R82), and the two
invariants of a view that these operations keep. -/

namespace Sys2Proof.Machine

/-! ## Pending values -/

/-- R54: every pending value lies within the limit, whatever is being reported. -/
theorem pending_within_limit {r x : Int} (h1 : pendingLow r ≤ x) (h2 : x ≤ pendingHigh r) :
    -Config.pendingLimit ≤ x ∧ x ≤ Config.pendingLimit := by
  unfold pendingLow pendingHigh Config.pendingLimit at *
  split at h1 <;> split at h2 <;> omega

/-- R54: 0 is a legal pending value while a legal amount is being reported. -/
theorem pending_zero {r : Int} (h1 : -Config.pendingLimit ≤ r) (h2 : r ≤ Config.pendingLimit) :
    pendingLow r ≤ 0 ∧ 0 ≤ pendingHigh r := by
  unfold pendingLow pendingHigh Config.pendingLimit at *
  split <;> split <;> omega

/-- R54: what a report in flight may say of a pending value leaves that value in range. -/
theorem pending_of_clamped {w x : Int} (hw : 0 ≤ w) (h1 : -Config.pendingLimit ≤ x) (h2 : x ≤ Config.pendingLimit) :
    pendingLow (max (-w) (min w x)) ≤ x ∧ x ≤ pendingHigh (max (-w) (min w x)) := by
  unfold pendingLow pendingHigh Config.pendingLimit at *
  split <;> split <;> omega

/-- R54, R80: the delivery of a reported amount leaves the rest within the limit. -/
theorem pending_sub {r x : Int} (h1 : pendingLow r ≤ x) (h2 : x ≤ pendingHigh r) :
    pendingLow 0 ≤ x - r ∧ x - r ≤ pendingHigh 0 := by
  unfold pendingLow pendingHigh Config.pendingLimit at *
  simp only [lt_irrefl, if_false]
  split at h1 <;> split at h2 <;> omega

/-- R54: the three ways in which a delta joins a pending value. -/
theorem addPending_cases (r x d : Int) :
    (addPending r x d = (x + d, false) ∧ pendingLow r ≤ x + d ∧ x + d ≤ pendingHigh r) ∨
      (addPending r x d = (pendingHigh r, true) ∧ pendingHigh r < x + d) ∨
      (addPending r x d = (pendingLow r, true) ∧ x + d < pendingLow r) := by
  unfold addPending
  dsimp only
  split
  · exact .inr (.inl ⟨rfl, by assumption⟩)
  · split
    · exact .inr (.inr ⟨rfl, by assumption⟩)
    · exact .inl ⟨rfl, by omega, by omega⟩

/-- R54: the pending value stays in its range, and the mark is set exactly if the value was held at a limit. -/
theorem addPending_spec (r x d : Int) (h : pendingLow r ≤ pendingHigh r) :
    pendingLow r ≤ (addPending r x d).1 ∧ (addPending r x d).1 ≤ pendingHigh r ∧
      ((addPending r x d).2 = true ↔ (addPending r x d).1 ≠ x + d) := by
  obtain ⟨he, hlo, hhi⟩ | ⟨he, hlt⟩ | ⟨he, hlt⟩ := addPending_cases r x d
  · rw [he]; exact ⟨hlo, hhi, by simp⟩
  · rw [he]; exact ⟨h, le_refl _, by simpa using hlt.ne⟩
  · rw [he]; exact ⟨le_refl _, h, by simpa using hlt.ne'⟩

theorem addPending_value (r x d : Int) :
    (addPending r x d).1 = x + d ∨ ((addPending r x d).1 = pendingHigh r ∧ pendingHigh r < x + d) ∨
      ((addPending r x d).1 = pendingLow r ∧ x + d < pendingLow r) := by
  obtain ⟨he, -⟩ | ⟨he, hlt⟩ | ⟨he, hlt⟩ := addPending_cases r x d
  · exact .inl (by rw [he])
  · exact .inr (.inl ⟨by rw [he], hlt⟩)
  · exact .inr (.inr ⟨by rw [he], hlt⟩)

/-! ## An account -/

theorem accumulate_pendingOk {rx ry x y : Int} {q : Byte} {a : Account} (hx : pendingLow rx ≤ pendingHigh rx)
    (hy : pendingLow ry ≤ pendingHigh ry) : (a.accumulate rx ry x y q).pendingOk rx ry :=
  ⟨(addPending_spec rx _ _ hx).1, (addPending_spec rx _ _ hx).2.1, (addPending_spec ry _ _ hy).1,
    (addPending_spec ry _ _ hy).2.1⟩

/-- R54: a spill is counted exactly if an axis, or both, are held at a limit. -/
theorem accumulate_spill {rx ry x y : Int} {q : Byte} {a : Account} (hx : pendingLow rx ≤ pendingHigh rx)
    (hy : pendingLow ry ≤ pendingHigh ry) :
    (a.accumulate rx ry x y q).spill =
      if (a.accumulate rx ry x y q).along ≠ a.along + x ∨ (a.accumulate rx ry x y q).across ≠ a.across + y then
        satInc 15 a.spill else a.spill := by
  have hx' := (addPending_spec rx a.along x hx).2.2
  have hy' := (addPending_spec ry a.across y hy).2.2
  have hiff : ((addPending rx a.along x).2 || (addPending ry a.across y).2) = true ↔
      (addPending rx a.along x).1 ≠ a.along + x ∨ (addPending ry a.across y).1 ≠ a.across + y := by
    rw [Bool.or_eq_true, hx', hy']
  exact if_congr hiff rfl rfl

/-- Settles O23: each axis by the three cases of `addPending`, and one spill for either. -/
theorem accumulationKeepsOrClips : Obligations.AccumulationKeepsOrClips := by
  unfold Obligations.AccumulationKeepsOrClips
  intro rx ry x y q a hok
  obtain ⟨h1, h2, h3, h4⟩ := hok
  have hx : pendingLow rx ≤ pendingHigh rx := h1.trans h2
  have hy : pendingLow ry ≤ pendingHigh ry := h3.trans h4
  exact ⟨accumulate_pendingOk hx hy, addPending_value rx _ _, addPending_value ry _ _, accumulate_spill hx hy,
    rfl, rfl⟩

theorem satInc_le {max n : Nat} (h : n ≤ max) : satInc max n ≤ max := by
  unfold satInc
  split <;> omega

theorem accumulate_countsOk {rx ry x y : Int} {q : Byte} {a : Account} (h : a.countsOk) :
    (a.accumulate rx ry x y q).countsOk := by
  obtain ⟨hgap, hspill⟩ := h
  refine ⟨hgap, ?_⟩
  show (if _ then satInc Config.accountCountMax a.spill else a.spill) ≤ _
  split
  · exact satInc_le hspill
  · exact hspill

/-! ## The accounts of a view -/

theorem get_put_eq {α : Type} {n : Nat} {v : Vector α n} {i : Fin n} {x : α} : (put v i x)[i] = x := by
  simp

theorem account?_of_subscribed {v : View} {c : ChannelId} (h : v.subscribed c = true) :
    v.account? c = v.accounts[c] := if_pos h

theorem account?_some {v : View} {c : ChannelId} {a : Account} (h : v.account? c = some a) :
    v.subscribed c = true ∧ v.accounts[c] = some a := by
  unfold View.account? at h
  split at h
  · exact ⟨by assumption, h⟩
  · cases h

/-- R53: the account of each channel after a successful motion exchange on channel `c`. -/
theorem accumulate_accounts (c : ChannelId) (x y : BitVec 12) (q : Byte) (v : View) (d : ChannelId) :
    (v.accumulate c x y q).accounts[d] =
      if d = c ∧ v.subscribed c = true then
        v.accounts[c].map (Account.accumulate (v.reportedAlong c) (v.reportedAcross c) x.toInt y.toInt q)
      else v.accounts[d] := by
  unfold View.accumulate
  cases ha : v.account? c with
  | none =>
    dsimp only
    split
    · next h =>
      obtain ⟨rfl, hs⟩ := h
      rw [account?_of_subscribed hs] at ha
      rw [ha]; rfl
    · rfl
  | some a =>
    obtain ⟨hs, hacc⟩ := account?_some ha
    dsimp only
    by_cases hd : d = c
    · subst hd
      rw [get_put_eq, if_pos ⟨rfl, hs⟩, hacc]; rfl
    · rw [get_put_ne hd, if_neg fun h => hd h.1]

/-- R55: the account of each channel after a gap on channel `c`. -/
theorem countGap_accounts (c : ChannelId) (v : View) (d : ChannelId) :
    (v.countGap c).accounts[d] =
      if d = c ∧ v.subscribed c = true then
        v.accounts[c].map fun a => { a with gap := satInc Config.accountCountMax a.gap }
      else v.accounts[d] := by
  unfold View.countGap
  cases ha : v.account? c with
  | none =>
    dsimp only
    split
    · next h =>
      obtain ⟨rfl, hs⟩ := h
      rw [account?_of_subscribed hs] at ha
      rw [ha]; rfl
    · rfl
  | some a =>
    obtain ⟨hs, hacc⟩ := account?_some ha
    dsimp only
    by_cases hd : d = c
    · subst hd
      rw [get_put_eq, if_pos ⟨rfl, hs⟩, hacc]; rfl
    · rw [get_put_ne hd, if_neg fun h => hd h.1]

@[simp] theorem accumulate_settings (c : ChannelId) (x y : BitVec 12) (q : Byte) (v : View) :
    (v.accumulate c x y q).settings = v.settings := by
  unfold View.accumulate; split <;> rfl

@[simp] theorem countGap_settings (c : ChannelId) (v : View) : (v.countGap c).settings = v.settings := by
  unfold View.countGap; split <;> rfl

@[simp] theorem countGap_report (c : ChannelId) (v : View) : (v.countGap c).report = v.report := by
  unfold View.countGap; split <;> rfl

/-- R57: the account of each channel after a change of the mask. -/
theorem resubscribe_accounts (v : View) (mask : Byte) (c : ChannelId) :
    (resubscribe v mask)[c] =
      if mask.getLsbD c.val = true then (if v.subscribed c = true then v.accounts[c] else some Account.created)
      else none := by
  simp [resubscribe]

/-- R59: the account of each channel after a VIEW RESET. -/
theorem clear_accounts (v : View) (c : ChannelId) :
    v.clear.accounts[c] = v.accounts[c].map fun _ => Account.created := by
  simp [View.clear]

/-- R80: a channel without a line keeps its account. -/
theorem foldl_applyLine_of_not_mem {lines : List ReportLine} {accounts : Vector (Option Account) 8} {c : ChannelId}
    (h : c ∉ lines.map (·.channel)) : (lines.foldl applyLine accounts)[c] = accounts[c] := by
  induction lines generalizing accounts with
  | nil => rfl
  | cons ln lines ih =>
    simp only [List.map_cons, List.mem_cons, not_or] at h
    rw [List.foldl_cons, ih h.2]
    exact get_upd_ne h.1

/-- R80 to R82: a channel with a line, where each channel has one, gives up what the line says. -/
theorem foldl_applyLine_of_mem {lines : List ReportLine} {accounts : Vector (Option Account) 8} {ln : ReportLine}
    (hn : (lines.map (·.channel)).Nodup) (h : ln ∈ lines) :
    (lines.foldl applyLine accounts)[ln.channel] = accounts[ln.channel].map (Account.applyLine ln) := by
  induction lines generalizing accounts with
  | nil => cases h
  | cons x lines ih =>
    rw [List.map_cons, List.nodup_cons] at hn
    rw [List.foldl_cons]
    obtain rfl | hm := List.mem_cons.1 h
    · rw [foldl_applyLine_of_not_mem hn.1]
      exact get_upd_eq
    · have hne : ln.channel ≠ x.channel := fun e => hn.1 (e ▸ List.mem_map_of_mem hm)
      rw [ih hn.2 hm]
      exact congrArg _ (get_upd_ne hne)

theorem foldl_applyLine_isSome (lines : List ReportLine) (accounts : Vector (Option Account) 8) (c : ChannelId) :
    (lines.foldl applyLine accounts)[c].isSome = accounts[c].isSome := by
  induction lines generalizing accounts with
  | nil => rfl
  | cons x lines ih =>
    rw [List.foldl_cons, ih]
    by_cases hc : c = x.channel
    · subst hc
      exact (congrArg _ get_upd_eq).trans Option.isSome_map
    · exact congrArg _ (get_upd_ne hc)

/-! ## Accounts and the mask -/

/-- R52: the view holds an account for each channel of its mask and for no other. -/
def View.matchesMask (v : View) : Prop := ∀ c : ChannelId, v.accounts[c].isSome = v.subscribed c

theorem matchesMask_of {v w : View} (hm : w.settings.mask = v.settings.mask)
    (ha : ∀ c : ChannelId, w.accounts[c].isSome = v.accounts[c].isSome) (h : v.matchesMask) : w.matchesMask := by
  intro c
  rw [ha c, h c]
  unfold View.subscribed
  rw [hm]

theorem firstView_matchesMask {st : Straps} {i : LinkId} {v : View} (h : v.matchesMask) :
    (firstView st i v).matchesMask := by
  intro c
  by_cases ha : autoSubscribes st i = true
  · have hall : ∀ c : ChannelId, (0xFF : Byte).getLsbD c.val = true := by decide
    simpa [firstView, firstViewSettings, View.subscribed, ha] using hall c
  · simpa [firstView, firstViewSettings, View.subscribed, ha] using h c

theorem resubscribe_matchesMask {own : ViewSettings} {v : View} (h : v.matchesMask) :
    (View.apply own v).matchesMask := by
  by_cases hm : own.mask = v.settings.mask
  · exact matchesMask_of (v := v) hm (fun c => by simp [View.apply, hm]) h
  · intro c
    have hacc : (View.apply own v).accounts = resubscribe v own.mask := if_neg hm
    rw [hacc, resubscribe_accounts]
    show _ = own.mask.getLsbD c.val
    by_cases hnew : own.mask.getLsbD c.val = true
    · rw [if_pos hnew, hnew]
      by_cases hold : v.subscribed c = true
      · rw [if_pos hold, h c, hold]
      · rw [if_neg hold]; rfl
    · rw [if_neg hnew]; simpa using hnew

theorem viewKeeps_matchesMask : ViewKeeps fun _ => View.matchesMask where
  reset _ c := (congrArg Option.isSome (get_replicate none c)).trans (by simp [View.subscribed, View.reset, ViewSettings.reset])
  first _ _ _ := firstView_matchesMask
  notice _ _ _ _ h := h
  accumulate _ c x y q v := matchesMask_of (by simp) fun d => by
    rw [accumulate_accounts]
    split
    · next hd => rw [Option.isSome_map, hd.1]
    · rfl
  countGap _ c v := matchesMask_of (by simp) fun d => by
    rw [countGap_accounts]
    split
    · next hd => rw [Option.isSome_map, hd.1]
    · rfl
  compose _ _ _ _ h := h
  deliver _ lines v _ := matchesMask_of rfl (foldl_applyLine_isSome lines v.accounts)
  abort _ _ h := h
  clear _ v := matchesMask_of rfl fun c => by rw [clear_accounts, Option.isSome_map]
  apply _ _ _ := resubscribe_matchesMask

/-- Settles O54: the invariant is a property of each view, which every change of a view keeps. -/
theorem stepKeepsAccountsToTheMask : Obligations.StepKeepsAccountsToTheMask := by
  unfold Obligations.StepKeepsAccountsToTheMask
  exact fun s t => viewKeeps_matchesMask.commandsKeep.step (s := s) (t := t)

end Sys2Proof.Machine

/-! PROOFS. O59: every account within its limits (R52, R54), and the lines of a report in flight with amounts that a
pending value can have (R56, R74). -/

namespace Sys2Proof.Machine

/-! ## The lines of a report -/

/-- R52, R54: the accounts of the view are within their limits, and so are the lines of its report. -/
def View.withinLimits (v : View) : Prop :=
  v.linesOk ∧ ∀ (c : ChannelId) (a : Account), v.accounts[c] = some a →
    a.countsOk ∧ a.pendingOk (v.reportedAlong c) (v.reportedAcross c)

/-- R74: an amount that a pending value can have. -/
def amountOk (r : Int) : Prop := -Config.pendingLimit ≤ r ∧ r ≤ Config.pendingLimit

theorem amountOk_zero : amountOk 0 := ⟨by decide, by decide⟩

theorem lineFor_mem {v : View} {c : ChannelId} {ln : ReportLine} (h : v.lineFor c = some ln) :
    ∃ lines, v.report = some lines ∧ ln ∈ lines ∧ ln.channel = c := by
  unfold View.lineFor at h
  split at h
  · cases h
  · next lines hr => exact ⟨lines, hr, List.mem_of_find?_eq_some h, by simpa using List.find?_some h⟩

/-- R54: what is being reported of a channel is an amount that a pending value can have. -/
theorem reported_amountOk {v : View} (h : v.linesOk) (c : ChannelId) :
    amountOk (v.reportedAlong c) ∧ amountOk (v.reportedAcross c) := by
  unfold View.reportedAlong View.reportedAcross
  cases hl : v.lineFor c with
  | none => exact ⟨amountOk_zero, amountOk_zero⟩
  | some ln =>
    obtain ⟨lines, hr, hm, -⟩ := lineFor_mem hl
    obtain ⟨h1, h2, h3, h4⟩ := (h lines hr).2 ln hm
    exact ⟨⟨h1, h2⟩, h3, h4⟩

/-- What is being reported depends on the report alone. -/
theorem reported_congr {v w : View} (h : w.report = v.report) (c : ChannelId) :
    w.reportedAlong c = v.reportedAlong c ∧ w.reportedAcross c = v.reportedAcross c := by
  unfold View.reportedAlong View.reportedAcross View.lineFor
  rw [h]
  exact ⟨rfl, rfl⟩

theorem linesOk_congr {v w : View} (h : w.report = v.report) (hv : v.linesOk) : w.linesOk := by
  unfold View.linesOk
  rw [h]
  exact hv

/-- R52: a created account is within its limits, whatever legal amount is being reported. -/
theorem created_withinLimits {rx ry : Int} (hx : amountOk rx) (hy : amountOk ry) :
    Account.created.countsOk ∧ Account.created.pendingOk rx ry :=
  ⟨⟨Nat.zero_le _, Nat.zero_le _⟩, (pending_zero hx.1 hx.2).1, (pending_zero hx.1 hx.2).2,
    (pending_zero hy.1 hy.2).1, (pending_zero hy.1 hy.2).2⟩

/-- The report stays, and every account is an old one or one within its limits. -/
theorem withinLimits_of {v w : View} (hr : w.report = v.report) (h : v.withinLimits)
    (ha : ∀ (c : ChannelId) (a : Account), w.accounts[c] = some a → v.accounts[c] = some a ∨
      a.countsOk ∧ a.pendingOk (v.reportedAlong c) (v.reportedAcross c)) : w.withinLimits := by
  refine ⟨linesOk_congr hr h.1, fun c a hc => ?_⟩
  rw [(reported_congr hr c).1, (reported_congr hr c).2]
  exact (ha c a hc).elim (h.2 c a) id

theorem created_of_reported {v : View} (h : v.withinLimits) (c : ChannelId) :
    Account.created.countsOk ∧ Account.created.pendingOk (v.reportedAlong c) (v.reportedAcross c) :=
  created_withinLimits (reported_amountOk h.1 c).1 (reported_amountOk h.1 c).2

/-- R54: with no report in flight every pending value keeps to the whole range. -/
theorem pendingOk_of_amountOk {a : Account} (hx : amountOk a.along) (hy : amountOk a.across) : a.pendingOk 0 0 :=
  ⟨hx.1, hx.2, hy.1, hy.2⟩

theorem amountOk_of_pendingOk {rx ry : Int} {a : Account} (h : a.pendingOk rx ry) :
    amountOk a.along ∧ amountOk a.across := by
  obtain ⟨h1, h2, h3, h4⟩ := h
  exact ⟨pending_within_limit h1 h2, pending_within_limit h3 h4⟩

/-! ## A report composed -/

theorem widthLimit_range (w : ReportWidth) : 0 ≤ widthLimit w ∧ widthLimit w ≤ Config.pendingLimit := by
  cases w <;> decide

/-- R74: a reported amount is one that a pending value can have. -/
theorem reportedAmount_amountOk (w : ReportWidth) (x : Int) : amountOk (reportedAmount w x) := by
  obtain ⟨h1, h2⟩ := widthLimit_range w
  unfold amountOk reportedAmount
  omega

theorem selectAccount_some {v : View} {mask : Byte} {changedOnly : Bool} {c : ChannelId} {x : ChannelId × Account}
    (h : selectAccount v mask changedOnly c = some x) :
    x.1 = c ∧ mask.getLsbD c.val = true ∧ v.account? c = some x.2 ∧ ¬(changedOnly = true ∧ x.2.unchanged = true) := by
  unfold selectAccount at h
  split at h
  · next hm =>
    split at h
    · cases h
    · next a ha =>
      split at h
      · cases h
      · next hu =>
        cases h
        exact ⟨rfl, hm, ha, by simpa using hu⟩
  · cases h

theorem selectAccount_eq {v : View} {mask : Byte} {changedOnly : Bool} {c : ChannelId} {a : Account}
    (hm : mask.getLsbD c.val = true) (ha : v.account? c = some a)
    (hu : ¬(changedOnly = true ∧ a.unchanged = true)) : selectAccount v mask changedOnly c = some (c, a) := by
  unfold selectAccount
  rw [if_pos hm, ha]
  simpa using hu

theorem mem_selectedAccounts {v : View} {mask : Byte} {changedOnly : Bool} {x : ChannelId × Account} :
    x ∈ selectedAccounts v mask changedOnly ↔
      mask.getLsbD x.1.val = true ∧ v.account? x.1 = some x.2 ∧ ¬(changedOnly = true ∧ x.2.unchanged = true) := by
  unfold selectedAccounts
  rw [List.mem_filterMap]
  constructor
  · rintro ⟨c, -, h⟩
    obtain ⟨rfl, h⟩ := selectAccount_some h
    exact h
  · rintro ⟨hm, ha, hu⟩
    exact ⟨x.1, mem_allChannels _, selectAccount_eq hm ha hu⟩

/-- R73: the selected channels are in ascending order. -/
theorem selectedAccounts_sorted (v : View) (mask : Byte) (changedOnly : Bool) :
    ((selectedAccounts v mask changedOnly).map (·.1)).Pairwise (· < ·) := by
  have hsub : ∀ cs : List ChannelId,
      ((cs.filterMap (selectAccount v mask changedOnly)).map (·.1)).Sublist cs := by
    intro cs
    induction cs with
    | nil => exact List.Sublist.slnil
    | cons c cs ih =>
      rw [List.filterMap_cons]
      split
      · exact ih.cons c
      · next x hx => rw [List.map_cons, (selectAccount_some hx).1]; exact ih.cons_cons c
  exact List.Pairwise.sublist (hsub allChannels) (by decide)

/-- R72: the lines of a report composed now. -/
def composedLines (v : View) (mask : Byte) (changedOnly : Bool) : List ReportLine :=
  (includedAccounts v mask changedOnly).map (reportLine v.settings.width)

/-- R73, R77: the lines are in ascending channel order. -/
theorem composedLines_sorted (v : View) (mask : Byte) (changedOnly : Bool) :
    ((composedLines v mask changedOnly).map (·.channel)).Pairwise (· < ·) := by
  have he : (composedLines v mask changedOnly).map (·.channel) =
      (includedAccounts v mask changedOnly).map (·.1) := by
    rw [composedLines, List.map_map]; rfl
  rw [he]
  exact List.Pairwise.sublist ((List.take_sublist _ _).map _) (selectedAccounts_sorted v mask changedOnly)

/-- R72, R74: a line of a composed report is that of an account the view holds. -/
theorem mem_composedLines {v : View} {mask : Byte} {changedOnly : Bool} {ln : ReportLine}
    (h : ln ∈ composedLines v mask changedOnly) :
    ∃ a, ln = reportLine v.settings.width (ln.channel, a) ∧ mask.getLsbD ln.channel.val = true ∧
      v.account? ln.channel = some a ∧ ¬(changedOnly = true ∧ a.unchanged = true) := by
  obtain ⟨x, hx, rfl⟩ := List.mem_map.1 h
  obtain ⟨hm, ha, hu⟩ := mem_selectedAccounts.1 (List.mem_of_mem_take hx)
  exact ⟨x.2, rfl, hm, ha, hu⟩

theorem compose_withinLimits {v : View} {mask : Byte} {changedOnly : Bool} (h : v.withinLimits) :
    View.withinLimits { v with report := some (composedLines v mask changedOnly) } := by
  refine ⟨fun lines hl => ?lines, fun c a hc => ⟨(h.2 c a hc).1, ?pending⟩⟩
  case lines =>
    cases hl
    refine ⟨(composedLines_sorted v mask changedOnly).imp ne_of_lt, fun ln hln => ?_⟩
    obtain ⟨a, he, -⟩ := mem_composedLines hln
    have hx := reportedAmount_amountOk v.settings.width a.along
    have hy := reportedAmount_amountOk v.settings.width a.across
    rw [he]
    exact ⟨hx.1, hx.2, hy.1, hy.2⟩
  case pending =>
    obtain ⟨hx, hy⟩ := amountOk_of_pendingOk (h.2 c a hc).2
    unfold View.reportedAlong View.reportedAcross
    cases hl : View.lineFor { v with report := some (composedLines v mask changedOnly) } c with
    | none => exact pendingOk_of_amountOk hx hy
    | some ln =>
      obtain ⟨lines, hr, hm, rfl⟩ := lineFor_mem hl
      cases hr
      obtain ⟨b, he, -, hb, -⟩ := mem_composedLines hm
      have hab : b = a := Option.some.inj ((account?_some hb).2.symm.trans hc)
      rw [he, hab]
      have hw := (widthLimit_range v.settings.width).1
      exact ⟨(pending_of_clamped hw hx.1 hx.2).1, (pending_of_clamped hw hx.1 hx.2).2,
        (pending_of_clamped hw hy.1 hy.2).1, (pending_of_clamped hw hy.1 hy.2).2⟩

/-! ## The other changes of a view -/

/-- R53: the lowering of a minimum quality changes no amount of a report. -/
theorem lowerAfterMin_find? (c d : ChannelId) (q : Byte) (lines : List ReportLine) :
    (lowerAfterMin c q lines).find? (fun ln => ln.channel == d) =
      (lines.find? fun ln => ln.channel == d).map fun ln =>
        if ln.channel = c then { ln with afterMin := lowerQuality q ln.afterMin } else ln := by
  rw [lowerAfterMin, List.find?_map]
  congr 2
  funext ln
  show ((if _ then _ else _ : ReportLine).channel == d) = _
  split <;> rfl

theorem accumulate_reported (c : ChannelId) (x y : BitVec 12) (q : Byte) (v : View) (d : ChannelId) :
    (v.accumulate c x y q).reportedAlong d = v.reportedAlong d ∧
      (v.accumulate c x y q).reportedAcross d = v.reportedAcross d := by
  unfold View.accumulate
  split
  · exact ⟨rfl, rfl⟩
  · unfold View.reportedAlong View.reportedAcross View.lineFor
    dsimp only
    cases v.report with
    | none => exact ⟨rfl, rfl⟩
    | some lines =>
      simp only [Option.map_some, lowerAfterMin_find?]
      cases lines.find? fun ln => ln.channel == d with
      | none => exact ⟨rfl, rfl⟩
      | some ln => simp only [Option.map_some]; split <;> exact ⟨rfl, rfl⟩

theorem accumulate_linesOk {c : ChannelId} {x y : BitVec 12} {q : Byte} {v : View} (h : v.linesOk) :
    (v.accumulate c x y q).linesOk := by
  unfold View.accumulate
  split
  · exact h
  · intro lines hl
    obtain ⟨old, hr, rfl⟩ := Option.map_eq_some_iff.1 hl
    obtain ⟨hn, hamounts⟩ := h old hr
    have hch : (lowerAfterMin c q old).map (·.channel) = old.map (·.channel) := by
      rw [lowerAfterMin, List.map_map]
      refine List.map_congr_left fun ln _ => ?_
      show (if _ then _ else _ : ReportLine).channel = _
      split <;> rfl
    refine ⟨by rw [hch]; exact hn, fun ln hln => ?_⟩
    obtain ⟨ln', hln', rfl⟩ := List.mem_map.1 hln
    have := hamounts ln' hln'
    split <;> exact this

theorem accumulate_withinLimits {c : ChannelId} {x y : BitVec 12} {q : Byte} {v : View} (h : v.withinLimits) :
    (v.accumulate c x y q).withinLimits := by
  refine ⟨accumulate_linesOk h.1, fun d a hd => ?_⟩
  rw [(accumulate_reported c x y q v d).1, (accumulate_reported c x y q v d).2]
  rw [accumulate_accounts] at hd
  split at hd
  · next hdc =>
    obtain ⟨rfl, -⟩ := hdc
    obtain ⟨b, hb, rfl⟩ := Option.map_eq_some_iff.1 hd
    obtain ⟨hcounts, hlo, hhi, hlo', hhi'⟩ := h.2 _ b hb
    exact ⟨accumulate_countsOk hcounts, accumulate_pendingOk (hlo.trans hhi) (hlo'.trans hhi')⟩
  · exact h.2 d a hd

theorem countGap_withinLimits {c : ChannelId} {v : View} (h : v.withinLimits) : (v.countGap c).withinLimits := by
  refine withinLimits_of (countGap_report c v) h fun d a hd => ?_
  rw [countGap_accounts] at hd
  split at hd
  · next hdc =>
    obtain ⟨rfl, -⟩ := hdc
    obtain ⟨b, hb, rfl⟩ := Option.map_eq_some_iff.1 hd
    obtain ⟨⟨hgap, hspill⟩, hpending⟩ := h.2 _ b hb
    exact .inr ⟨⟨satInc_le hgap, hspill⟩, hpending⟩
  · exact .inl hd

/-- R80 to R82: the amounts of a line leave the account, and with the report gone the whole range is legal. -/
theorem applyLine_withinLimits {a : Account} {ln : ReportLine} (hc : a.countsOk)
    (hp : a.pendingOk ln.along ln.across) : (a.applyLine ln).countsOk ∧ (a.applyLine ln).pendingOk 0 0 := by
  obtain ⟨h1, h2, h3, h4⟩ := hp
  exact ⟨⟨(Nat.sub_le _ _).trans hc.1, (Nat.sub_le _ _).trans hc.2⟩, (pending_sub h1 h2).1, (pending_sub h1 h2).2,
    (pending_sub h3 h4).1, (pending_sub h3 h4).2⟩

/-- R54: what is being reported of a channel that has a line. -/
theorem reported_of_mem {v : View} {lines : List ReportLine} {ln : ReportLine} (hr : v.report = some lines)
    (hn : (lines.map (·.channel)).Nodup) (hm : ln ∈ lines) :
    v.reportedAlong ln.channel = ln.along ∧ v.reportedAcross ln.channel = ln.across := by
  have hl : v.lineFor ln.channel = some ln := by
    unfold View.lineFor
    rw [hr]
    dsimp only
    cases hf : lines.find? fun x => x.channel == ln.channel with
    | none => exact absurd (List.find?_eq_none.1 hf ln hm) (by simp)
    | some x =>
      have hx : x.channel = ln.channel := by simpa using List.find?_some hf
      exact congrArg some (List.inj_on_of_nodup_map hn (List.mem_of_find?_eq_some hf) hm hx)
  unfold View.reportedAlong View.reportedAcross
  rw [hl]
  exact ⟨rfl, rfl⟩

theorem deliver_withinLimits {lines : List ReportLine} {v : View} (hr : v.report = some lines)
    (h : v.withinLimits) :
    View.withinLimits { v with accounts := lines.foldl applyLine v.accounts, report := none } := by
  refine ⟨fun lines hl => (by cases hl), fun c a hc => ?_⟩
  obtain ⟨hn, -⟩ := h.1 lines hr
  by_cases hm : c ∈ lines.map (·.channel)
  · obtain ⟨ln, hln, rfl⟩ := List.mem_map.1 hm
    dsimp only at hc
    rw [foldl_applyLine_of_mem hn hln] at hc
    obtain ⟨b, hb, rfl⟩ := Option.map_eq_some_iff.1 hc
    obtain ⟨hcounts, hpending⟩ := h.2 _ b hb
    rw [(reported_of_mem hr hn hln).1, (reported_of_mem hr hn hln).2] at hpending
    exact applyLine_withinLimits hcounts hpending
  · dsimp only at hc
    rw [foldl_applyLine_of_not_mem hm] at hc
    obtain ⟨hcounts, hpending⟩ := h.2 c a hc
    exact ⟨hcounts, pendingOk_of_amountOk (amountOk_of_pendingOk hpending).1 (amountOk_of_pendingOk hpending).2⟩

theorem abort_withinLimits {v : View} (h : v.withinLimits) : View.withinLimits { v with report := none } := by
  refine ⟨fun lines hl => (by cases hl), fun c a hc => ?_⟩
  obtain ⟨hcounts, hpending⟩ := h.2 c a hc
  exact ⟨hcounts, pendingOk_of_amountOk (amountOk_of_pendingOk hpending).1 (amountOk_of_pendingOk hpending).2⟩

theorem firstView_withinLimits {st : Straps} {i : LinkId} {v : View} (h : v.withinLimits) :
    (firstView st i v).withinLimits := by
  refine withinLimits_of (v := v) rfl h fun c a hc => ?_
  by_cases hs : autoSubscribes st i = true
  · simp only [firstView, hs, if_true] at hc
    rw [get_replicate] at hc
    cases hc
    exact .inr (created_of_reported h c)
  · simp only [firstView, hs] at hc
    exact .inl hc

theorem clear_withinLimits {v : View} (h : v.withinLimits) : v.clear.withinLimits := by
  refine withinLimits_of (v := v) rfl h fun c a hc => ?_
  rw [clear_accounts] at hc
  obtain ⟨-, -, rfl⟩ := Option.map_eq_some_iff.1 hc
  exact .inr (created_of_reported h c)

theorem apply_withinLimits {own : ViewSettings} {v : View} (h : v.withinLimits) :
    (View.apply own v).withinLimits := by
  refine withinLimits_of (v := v) rfl h fun c a hc => ?_
  unfold View.apply at hc
  dsimp only at hc
  split at hc
  · exact .inl hc
  · rw [resubscribe_accounts] at hc
    split at hc
    · split at hc
      · exact .inl hc
      · cases hc
        exact .inr (created_of_reported h c)
    · cases hc

theorem viewKeeps_withinLimits : ViewKeeps fun _ => View.withinLimits where
  reset _ := ⟨fun lines hl => (by cases hl), fun c a hc => by
    rw [show View.reset.accounts[c] = none from get_replicate none c] at hc; cases hc⟩
  first _ _ _ := firstView_withinLimits
  notice _ _ _ _ h := h
  accumulate _ _ _ _ _ _ := accumulate_withinLimits
  countGap _ _ _ := countGap_withinLimits
  compose _ _ _ _ := compose_withinLimits
  deliver _ _ _ := deliver_withinLimits
  abort _ _ := abort_withinLimits
  clear _ _ := clear_withinLimits
  apply _ _ _ := apply_withinLimits

/-- Settles O59: the invariant is a property of each view, which every change of a view keeps. -/
theorem stepKeepsAccountsWithinLimits : Obligations.StepKeepsAccountsWithinLimits := by
  unfold Obligations.StepKeepsAccountsWithinLimits
  exact fun s t => viewKeeps_withinLimits.commandsKeep.step (s := s) (t := t)

end Sys2Proof.Machine

/-! PROOFS. O55: every setting and every combination of settings stays legal (R39, R62, R87, R108, R120). First that
the events other than strap sampling and an accepted write keep the settings of every view, then what a write that its
checks accept leaves legal. -/

namespace Sys2Proof.Machine

/-! ## Events that keep the settings of the views -/

/-- The settings of view `i` are those of `x`. -/
def viewSettingsAre (x : LinkId → ViewSettings) (i : LinkId) (v : View) : Prop := v.settings = x i

theorem viewEventsKeep_settings (x : LinkId → ViewSettings) : ViewEventsKeep (viewSettingsAre x) where
  notice _ _ _ _ h := h
  accumulate _ c a b q v h := (accumulate_settings c a b q v).trans h
  countGap _ c v h := (countGap_settings c v).trans h
  compose _ _ _ _ h := h
  deliver _ _ _ _ h := h
  abort _ _ h := h
  clear _ _ h := h

/-- An event that keeps whatever the events of a view keep keeps its settings. -/
theorem viewSettings_of {s t : State}
    (h : ∀ {P : LinkId → View → Prop}, ViewEventsKeep P → everyView P s → everyView P t) (v : LinkId) :
    t.views[v].settings = s.views[v].settings :=
  h (viewEventsKeep_settings fun i => s.views[i].settings) (fun _ => rfl) v

theorem tickEvent_viewSettings (trg : BitVec 4) (s : State) (v : LinkId) :
    (tickEvent trg s).views[v].settings = s.views[v].settings :=
  viewSettings_of (fun hP => everyView_tickEvent hP.toPartEventsKeep) v

theorem leaseExpiryEvent_viewSettings (s : State) (v : LinkId) :
    (leaseExpiryEvent s).views[v].settings = s.views[v].settings :=
  viewSettings_of (fun hP => everyView_leaseExpiryEvent hP.toPartEventsKeep) v

theorem exchangeEvent_viewSettings (sdi : List (Samples 8)) (s : State) (v : LinkId) :
    (exchangeEvent sdi s).views[v].settings = s.views[v].settings :=
  viewSettings_of (fun hP => everyView_exchangeEvent hP.toPartEventsKeep) v

theorem deliverFrame_viewSettings (l : LinkId) (kind : ReplyKind) (s : State) (v : LinkId) :
    (deliverFrame l kind s).views[v].settings = s.views[v].settings :=
  viewSettings_of (fun hP => everyView_deliverFrame hP) v

theorem breakEvent_viewSettings (l : LinkId) (order : BreakOrder) (s : State) (v : LinkId) :
    (breakEvent l order s).views[v].settings = s.views[v].settings :=
  viewSettings_of (fun hP => everyView_breakEvent hP) v

/-- R147: a request other than a SETTING WRITE keeps the settings of every view. -/
theorem runRequest_viewSettings {l : LinkId} {r : Request} {s : State} (hr : ∀ p, r ≠ .settingWrite p) (v : LinkId) :
    (runRequest l r s).views[v].settings = s.views[v].settings := by
  cases r with
  | motionRead mask options => exact viewSettings_of (fun hP => everyView_runMotionRead hP) v
  | viewReset => exact viewSettings_of (fun hP => everyView_runViewReset hP) v
  | settingWrite payload => exact absurd rfl (hr payload)
  | _ => simp [runRequest]

/-- R147: a request other than a SETTING WRITE keeps the shared settings. -/
theorem runRequest_settings {l : LinkId} {r : Request} {s : State} (hr : ∀ p, r ≠ .settingWrite p) :
    (runRequest l r s).settings = s.settings := by
  cases r with
  | settingWrite payload => exact absurd rfl (hr payload)
  | _ => simp [runRequest]

/-! ## The settings alone matter -/

theorem settingsLegal_congr {s t : State} (hs : t.settings = s.settings)
    (hv : ∀ v : LinkId, t.views[v].settings = s.views[v].settings) (h : settingsLegal s) : settingsLegal t := by
  unfold settingsLegal ringsDisjoint at *
  simp only [hs, hv]
  exact h

theorem settingsLegal_congr_views {s t : State} (hs : t.settings = s.settings) (hv : t.views = s.views)
    (h : settingsLegal s) : settingsLegal t := settingsLegal_congr hs (fun v => by rw [hv]) h

theorem ringsDisjoint_congr {s t : State} (hv : ∀ v : LinkId, t.views[v].settings = s.views[v].settings)
    (h : ringsDisjoint s) : ringsDisjoint t := by
  unfold ringsDisjoint at *
  simp only [hv]
  exact h

theorem ringsDisjoint_of_legal {s : State} (h : settingsLegal s) : ringsDisjoint s := h.2.2.2.2

/-! ## Strap sampling -/

/-- R106, R108: the first placements are in range, and no two share a slot. -/
theorem firstPlacement_legal : ∀ (twoLinks : Bool) (v : LinkId),
    placementInRange (firstPlacement twoLinks v).1 (firstPlacement twoLinks v).2 = true ∧
      ∀ u : LinkId, v ≠ u → placementsShare (firstPlacement twoLinks v).1 (firstPlacement twoLinks v).2
        (firstPlacement twoLinks u).1 (firstPlacement twoLinks u).2 = false := by decide

theorem firstChannelSettings_legal {st : Straps} {cs : ChannelSettings} (h : cs.legal) :
    (firstChannelSettings st cs).legal := by
  unfold firstChannelSettings
  split <;> exact h

theorem sampleStraps_settingsLegal {st : Straps} {ld : BitVec 4} {s : State} (h : settingsLegal s) :
    settingsLegal (sampleStraps st ld s) := by
  have hview : ∀ v : LinkId, (sampleStraps st ld s).views[v].settings =
      firstViewSettings st v s.views[v].settings := fun v => by simp [sampleStraps, firstView]
  obtain ⟨hchannels, htriggers, hlease, hreply, -⟩ := h
  refine ⟨fun c => ?_, htriggers, hlease, fun v => ?_, ?_⟩
  · simpa [sampleStraps] using firstChannelSettings_legal (st := st) (hchannels c)
  · rw [hview]; exact hreply v
  · unfold ringsDisjoint
    simp only [hview]
    exact ⟨fun v => (firstPlacement_legal st.twoLinks v).1, fun v => (firstPlacement_legal st.twoLinks v).2⟩

/-! ## One setting as written -/

theorem writeChannel_legal {n : Nat} {cs cs' : ChannelSettings} {f : ChannelField}
    (h : writeChannel n cs f = some cs') (hl : cs.legal) : cs'.legal := by
  obtain ⟨h0, h0', h1, h1', h2, h2', h3, h3', h4, h4', h5, h5', h6, h6'⟩ := hl
  cases f <;> simp only [writeChannel, Option.map_eq_some_iff, reduceCtorEq] at h <;> obtain ⟨x, hx, rfl⟩ := h
  case enable => exact ⟨h0, h0', h1, h1', h2, h2', h3, h3', h4, h4', h5, h5', h6, h6'⟩
  case expectedId => exact ⟨h0, h0', h1, h1', h2, h2', h3, h3', h4, h4', h5, h5', h6, h6'⟩
  case forcedTier => exact ⟨h0, h0', h1, h1', h2, h2', h3, h3', h4, h4', h5, h5', h6, h6'⟩
  case t0Period =>
    obtain ⟨g, g', -⟩ := inRange_some hx
    exact ⟨g, g', h1, h1', h2, h2', h3, h3', h4, h4', h5, h5', h6, h6'⟩
  case t1Period =>
    obtain ⟨g, g', -⟩ := inRange_some hx
    exact ⟨h0, h0', g, g', h2, h2', h3, h3', h4, h4', h5, h5', h6, h6'⟩
  case t2Period =>
    obtain ⟨g, g', -⟩ := inRange_some hx
    exact ⟨h0, h0', h1, h1', g, g', h3, h3', h4, h4', h5, h5', h6, h6'⟩
  case t3Period =>
    obtain ⟨g, g', -⟩ := inRange_some hx
    exact ⟨h0, h0', h1, h1', h2, h2', g, g', h4, h4', h5, h5', h6, h6'⟩
  case d0 =>
    obtain ⟨g, g', -⟩ := inRange_some hx
    exact ⟨h0, h0', h1, h1', h2, h2', h3, h3', g, g', h5, h5', h6, h6'⟩
  case d1 =>
    obtain ⟨g, g', -⟩ := inRange_some hx
    exact ⟨h0, h0', h1, h1', h2, h2', h3, h3', h4, h4', g, g', h6, h6'⟩
  case d2 =>
    obtain ⟨g, g', -⟩ := inRange_some hx
    exact ⟨h0, h0', h1, h1', h2, h2', h3, h3', h4, h4', h5, h5', g, g'⟩

theorem writeTrigger_filter {n : Nat} {ts ts' : TriggerSettings} {f : TriggerField}
    (h : writeTrigger n ts f = some ts') (hl : ts.filter ≤ 7) : ts'.filter ≤ 7 := by
  cases f <;> simp only [writeTrigger, Option.map_eq_some_iff] at h <;> obtain ⟨x, hx, rfl⟩ := h
  case filter => exact (inRange_some hx).2.1
  all_goals exact hl

theorem writeOwn_maxReply {n : Nat} {vs vs' : ViewSettings} {f : OwnField} (h : writeOwn n vs f = some vs')
    (hl : 64 ≤ vs.maxReply ∧ vs.maxReply ≤ 256) : 64 ≤ vs'.maxReply ∧ vs'.maxReply ≤ 256 := by
  cases f <;> simp only [writeOwn, Option.map_eq_some_iff] at h <;> obtain ⟨x, hx, rfl⟩ := h
  case maxReply => exact ⟨(inRange_some hx).1, (inRange_some hx).2.1⟩
  all_goals exact hl

/-- R110: a setting that is neither ring base nor ring length keeps the placement. -/
theorem writeOwn_placement {n : Nat} {vs vs' : ViewSettings} {f : OwnField} (h : writeOwn n vs f = some vs')
    (hb : f ≠ .ringBase) (hl : f ≠ .ringLength) : vs'.ringBase = vs.ringBase ∧ vs'.ringLength = vs.ringLength := by
  cases f <;> simp only [writeOwn, Option.map_eq_some_iff] at h <;> obtain ⟨x, hx, rfl⟩ := h
  case ringBase => exact absurd rfl hb
  case ringLength => exact absurd rfl hl
  all_goals exact ⟨rfl, rfl⟩

/-! ## The settings of a run as written -/

/-- R132: the settings that a write leaves lie in their ranges, one by one. -/
def Candidate.inRange (k : Candidate) : Prop :=
  (∀ c : ChannelId, k.shared.channels[c].legal) ∧ (∀ t : TriggerId, k.shared.triggers[t].filter ≤ 7) ∧
    (1 ≤ k.shared.leaseTimeout ∧ k.shared.leaseTimeout ≤ 255) ∧ (64 ≤ k.own.maxReply ∧ k.own.maxReply ≤ 256)

theorem writeOne_inRange {k k' : Candidate} {x : Setting} {v : Word} (h : writeOne k x v = some k')
    (hk : k.inRange) : k'.inRange := by
  obtain ⟨hc, ht, hl, ho⟩ := hk
  cases x with
  | global f =>
    cases f <;> simp only [writeOne, Option.map_eq_some_iff, reduceCtorEq] at h
    obtain ⟨n, hn, rfl⟩ := h
    obtain ⟨h1, h2, -⟩ := inRange_some hn
    exact ⟨hc, ht, ⟨h1, h2⟩, ho⟩
  | channel c f =>
    simp only [writeOne, Option.map_eq_some_iff] at h
    obtain ⟨cs, hcs, rfl⟩ := h
    refine ⟨fun d => ?_, ht, hl, ho⟩
    by_cases hd : d = c
    · subst hd; rw [get_put_eq]; exact writeChannel_legal hcs (hc d)
    · rw [get_put_ne hd]; exact hc d
  | trigger t f =>
    simp only [writeOne, Option.map_eq_some_iff] at h
    obtain ⟨ts, hts, rfl⟩ := h
    refine ⟨hc, fun u => ?_, hl, ho⟩
    by_cases hu : u = t
    · subst hu; rw [get_put_eq]; exact writeTrigger_filter hts (ht u)
    · rw [get_put_ne hu]; exact ht u
  | own f =>
    simp only [writeOne, Option.map_eq_some_iff] at h
    obtain ⟨vs, hvs, rfl⟩ := h
    exact ⟨hc, ht, hl, writeOwn_maxReply hvs ho⟩

theorem touchesTrigger_iff {run : List Setting} {t : TriggerId} :
    touchesTrigger run t = true ↔ ∃ f, Setting.trigger t f ∈ run := by
  unfold touchesTrigger
  rw [List.any_eq_true]
  constructor
  · rintro ⟨x, hx, h⟩
    cases x with
    | trigger u f => exact ⟨f, (of_decide_eq_true h) ▸ hx⟩
    | global f => cases h
    | channel c f => cases h
    | own f => cases h
  · rintro ⟨f, hf⟩
    exact ⟨_, hf, decide_eq_true rfl⟩

theorem touchesRing_iff {run : List Setting} :
    touchesRing run = true ↔ Setting.own .ringBase ∈ run ∨ Setting.own .ringLength ∈ run := by
  simp [touchesRing, wrote]

/-- R132: a run that names no setting of a trigger keeps that trigger's settings. -/
theorem writeRun_trigger {k k' : Candidate} {run : List Setting} {vs : List Word} {t : TriggerId}
    (h : writeRun k run vs = some k') (ht : touchesTrigger run t = false) :
    k'.shared.triggers[t] = k.shared.triggers[t] := by
  have hno : ¬ ∃ f, Setting.trigger t f ∈ run := by rw [← touchesTrigger_iff, ht]; exact Bool.false_ne_true
  refine writeRun_keeps (P := fun j => j.shared.triggers[t] = k.shared.triggers[t]) ?_ h rfl
  intro x hx v j j' hj hP
  cases x with
  | global f => obtain ⟨n, rfl⟩ := writeOne_global hj; exact hP
  | channel c f => obtain ⟨cs, rfl⟩ := writeOne_channel hj; exact hP
  | trigger u f =>
    obtain ⟨ts, rfl⟩ := writeOne_trigger hj
    exact (get_put_ne fun e : t = u => hno ⟨f, e ▸ hx⟩).trans hP
  | own f => obtain ⟨os, rfl⟩ := writeOne_own hj; exact hP

/-- R110, R132: a run that names neither ring base nor ring length keeps the placement. -/
theorem writeRun_placement {k k' : Candidate} {run : List Setting} {vs : List Word}
    (h : writeRun k run vs = some k') (ht : touchesRing run = false) :
    k'.own.ringBase = k.own.ringBase ∧ k'.own.ringLength = k.own.ringLength := by
  have hno : ¬(Setting.own .ringBase ∈ run ∨ Setting.own .ringLength ∈ run) := by
    rw [← touchesRing_iff, ht]; exact Bool.false_ne_true
  refine writeRun_keeps
    (P := fun j => j.own.ringBase = k.own.ringBase ∧ j.own.ringLength = k.own.ringLength) ?_ h ⟨rfl, rfl⟩
  intro x hx v j j' hj hP
  cases x with
  | global f => obtain ⟨n, rfl⟩ := writeOne_global hj; exact hP
  | channel c f => obtain ⟨cs, rfl⟩ := writeOne_channel hj; exact hP
  | trigger u f => obtain ⟨ts, rfl⟩ := writeOne_trigger hj; exact hP
  | own f =>
    simp only [writeOne, Option.map_eq_some_iff] at hj
    obtain ⟨os, hos, rfl⟩ := hj
    have hp := writeOwn_placement hos (fun e => hno (.inl (e ▸ hx))) (fun e => hno (.inr (e ▸ hx)))
    exact ⟨hp.1.trans hP.1, hp.2.trans hP.2⟩

/-! ## What an accepted write leaves -/

theorem accepted_inRange {s : State} {l : LinkId} {p : List Byte} {w : AcceptedWrite}
    (hw : checkWrite s l p = .ok w) (h : settingsLegal s) : w.left.inRange := by
  obtain ⟨a, values, -, -, -, hrun, -, -⟩ := checkWrite_ok hw
  obtain ⟨hc, ht, hl, hv, -⟩ := h
  exact writeRun_keeps (fun x _ v k k' => writeOne_inRange) hrun ⟨hc, fun t => (ht t).1, hl, hv l⟩

/-- R87, R132: the combination of each trigger's settings is checked where the run touches it, and kept elsewhere. -/
theorem accepted_triggerLegal {s : State} {l : LinkId} {p : List Byte} {w : AcceptedWrite}
    (hw : checkWrite s l p = .ok w) (h : settingsLegal s) (t : TriggerId) :
    triggerLegal w.left.shared.triggers[t] = true := by
  obtain ⟨a, values, -, -, -, hrun, hcomb, -⟩ := checkWrite_ok hw
  cases ht : touchesTrigger w.run t with
  | false => rw [writeRun_trigger hrun ht]; exact (h.2.1 t).2
  | true =>
    have hall := (Bool.and_eq_true_iff.1 hcomb).1
    have := List.all_eq_true.1 hall t (mem_allTriggers t)
    simpa [ht] using this

theorem placementsShare_comm (b n b' n' : Nat) : placementsShare b n b' n' = placementsShare b' n' b n := by
  unfold placementsShare
  rw [Bool.eq_iff_iff]
  simp only [Bool.and_eq_true, decide_eq_true_eq]
  omega

/-- R108: what the overlap check establishes. -/
theorem not_overlapsOther {views : Vector View 4} {l : LinkId} {b n : Nat} (h : overlapsOther views l b n = false)
    {u : LinkId} (hu : u ≠ l) :
    placementsShare b n views[u].settings.ringBase views[u].settings.ringLength = false := by
  unfold overlapsOther at h
  have := List.any_eq_false.1 h u (mem_allLinks u)
  simpa [hu] using this

/-- R108, R110: the placement that an accepted write leaves is in range and clear of every other view's ring. -/
theorem accepted_placement {s : State} {l : LinkId} {p : List Byte} {w : AcceptedWrite}
    (hw : checkWrite s l p = .ok w) (h : ringsDisjoint s) :
    placementInRange w.left.own.ringBase w.left.own.ringLength = true ∧
      ∀ u : LinkId, u ≠ l → placementsShare w.left.own.ringBase w.left.own.ringLength
        s.views[u].settings.ringBase s.views[u].settings.ringLength = false := by
  obtain ⟨a, values, -, -, -, hrun, hcomb, hover⟩ := checkWrite_ok hw
  cases ht : touchesRing w.run with
  | false =>
    obtain ⟨hb, hn⟩ := writeRun_placement hrun ht
    rw [hb, hn]
    exact ⟨h.1 l, fun u hu => h.2 l u hu.symm⟩
  | true =>
    have hplace := (Bool.and_eq_true_iff.1 hcomb).2
    rw [ht] at hplace
    exact ⟨by simpa using hplace, fun u hu => not_overlapsOther (hover ht) hu⟩

theorem applyWrite_viewSettings (l : LinkId) (w : AcceptedWrite) (s : State) (v : LinkId) :
    (applyWrite l w s).views[v].settings = if v = l then w.left.own else s.views[v].settings := by
  rw [applyWrite_views]
  by_cases hv : v = l
  · subst hv; rw [get_upd_eq, if_pos rfl]; rfl
  · rw [get_upd_ne hv, if_neg hv]

@[simp] theorem applyWrite_settings (l : LinkId) (w : AcceptedWrite) (s : State) :
    (applyWrite l w s).settings = w.left.shared := by
  simp [applyWrite]

theorem applyWrite_settingsLegal {s : State} {l : LinkId} {p : List Byte} {w : AcceptedWrite}
    (hw : checkWrite s l p = .ok w) (h : settingsLegal s) : settingsLegal (applyWrite l w s) := by
  obtain ⟨hc, ht, hl, ho⟩ := accepted_inRange hw h
  obtain ⟨hplace, hclear⟩ := accepted_placement hw (ringsDisjoint_of_legal h)
  unfold settingsLegal ringsDisjoint
  simp only [applyWrite_settings, applyWrite_viewSettings]
  refine ⟨hc, fun t => ⟨ht t, accepted_triggerLegal hw h t⟩, hl, fun v => ?_, fun v => ?_, fun v u hvu => ?_⟩
  · split
    · exact ho
    · exact h.2.2.2.1 v
  · split
    · exact hplace
    · exact (ringsDisjoint_of_legal h).1 v
  · by_cases hv : v = l
    · rw [if_pos hv, if_neg fun hu : u = l => hvu (hv.trans hu.symm)]
      exact hclear u fun hu => hvu (hv.trans hu.symm)
    · by_cases hu : u = l
      · rw [if_pos hu, if_neg hv, placementsShare_comm]
        exact hclear v hv
      · rw [if_neg hu, if_neg hv]
        exact (ringsDisjoint_of_legal h).2 v u hvu

/-! ## Every step -/

theorem runRequest_settingsLegal {l : LinkId} {r : Request} {s : State} (h : settingsLegal s) :
    settingsLegal (runRequest l r s) := by
  by_cases hr : ∃ p, r = .settingWrite p
  · obtain ⟨p, rfl⟩ := hr
    show settingsLegal (runSettingWrite l p s)
    unfold runSettingWrite
    split
    · exact settingsLegal_congr_views (by simp) (by simp) h
    · next w hw =>
      exact settingsLegal_congr_views (s := applyWrite l w s) (by simp) (by simp) (applyWrite_settingsLegal hw h)
  · have hne : ∀ p, r ≠ .settingWrite p := fun p e => hr ⟨p, e⟩
    exact settingsLegal_congr (runRequest_settings hne) (runRequest_viewSettings hne) h

theorem execute_settingsLegal {l : LinkId} {r : Request} {rest : List Request} {s : State} (h : settingsLegal s) :
    settingsLegal (execute l r rest s) :=
  settingsLegal_congr_views (s := runRequest l r (popped l rest s)) (renewLease_frame l _).2.2.2.1
    (renewLease_frame l _).2.2.2.2.2.2.2.1 (runRequest_settingsLegal (s := popped l rest s) h)

theorem settingsLegal_reset (q : List Instr) : settingsLegal { State.reset with pending := q } := by
  have hv : ∀ v : LinkId, ({ State.reset with pending := q } : State).views[v].settings = ViewSettings.reset :=
    fun v => congrArg View.settings (get_replicate View.reset v)
  unfold settingsLegal ringsDisjoint
  simp only [hv]
  refine ⟨fun c => ?_, fun t => ?_, by decide, fun _ => by decide, fun _ => by decide, fun _ _ _ => by decide⟩
  · rw [show ({ State.reset with pending := q } : State).settings.channels[c] = ChannelSettings.reset from
      get_replicate _ c]
    unfold ChannelSettings.legal
    decide
  · rw [show ({ State.reset with pending := q } : State).settings.triggers[t] = TriggerSettings.reset from
      get_replicate _ t]
    decide

theorem turnKeeps_settingsLegal : TurnKeeps settingsLegal fun _ => settingsLegal where
  guard _ _ _ _ h := h
  deliver l f s _ _ := settingsLegal_congr (by simp) (deliverFrame_viewSettings l f.kind s)
  execute _ _ _ _ _ _ := execute_settingsLegal
  closing _ _ _ := settingsLegal_congr_views (by simp) (by simp)
  turn _ _ _ := settingsLegal_congr_views (by simp) (by simp)
  endTurn _ _ _ := settingsLegal_congr_views (by simp) (by simp)

theorem commandsKeep_settingsLegal : CommandsKeep settingsLegal fun _ => settingsLegal where
  turns := turnKeeps_settingsLegal
  pending _ _ h := h
  reset := settingsLegal_reset
  release _ _ h := h
  straps _ _ s _ h := sampleStraps_settingsLegal (s := { s with tickCount := s.tickCount + 1 }) h
  tick trg s _ := settingsLegal_congr (by simp) (tickEvent_viewSettings trg s)
  due _ _ _ := settingsLegal_congr_views (by simp) (by simp)
  lease s _ := settingsLegal_congr (by simp) (leaseExpiryEvent_viewSettings s)
  pulse _ _ _ := settingsLegal_congr_views (by simp) (by simp)
  confirm _ _ _ := settingsLegal_congr_views (by simp) (by simp)
  grant _ _ := settingsLegal_congr_views (by simp) (by simp)
  exchange sdi s _ := settingsLegal_congr (by simp) (exchangeEvent_viewSettings sdi s)
  character _ _ _ _ := settingsLegal_congr_views (by simp) (by simp)
  fourthByte _ _ _ _ := settingsLegal_congr_views (by simp) (by simp)
  lastCrcByte _ _ _ _ := settingsLegal_congr_views (by simp) (by simp)
  timeout _ _ _ h := h
  framing _ _ _ := settingsLegal_congr_views (by simp) (by simp)
  endDiscard _ _ _ h := h
  contention _ _ _ := settingsLegal_congr_views (by simp) (by simp)
  lineBreak l order s _ := settingsLegal_congr (by simp) (breakEvent_viewSettings l order s)
  returnToMark _ _ _ h := h

/-- Settles O55: every change of which a command is made keeps the settings legal. -/
theorem stepKeepsSettingsLegal : Obligations.StepKeepsSettingsLegal := by
  unfold Obligations.StepKeepsSettingsLegal
  exact fun _ _ => commandsKeep_settingsLegal.step

end Sys2Proof.Machine

/-! PROOFS. O58: every attention output stands as its inputs call for (R66 to R70). An event either ends with the
evaluation of attention, which makes the outputs current whatever it finds, or changes no input of them. -/

namespace Sys2Proof.Machine

/-! ## What attention looks at -/

/-- R66: the condition looks at the states of the channels, at the view's settings, accounts and notice, and at the
counts of its ring. -/
theorem conditionOf_congr {channels channels' : Vector Channel 8} {v v' : View} {r r' : Ring}
    (hc : ∀ c : ChannelId, channels'[c].state = channels[c].state) (hs : v'.settings = v.settings)
    (ha : v'.accounts = v.accounts) (hl : v'.leaseLost = v.leaseLost) (hn : r'.count = r.count)
    (hd : r'.dropped = r.dropped) : conditionOf channels' v' r' = conditionOf channels v r := by
  unfold conditionOf motionSource flagsSource captureSource leaseSource View.account? View.subscribed
  simp only [hc, hs, ha, hl, hn, hd]

theorem attentionCurrent_congr {s t : State} (hp : t.phase = s.phase) (hst : t.straps = s.straps)
    (hc : ∀ v : LinkId, attentionCondition t v = attentionCondition s v)
    (hv : ∀ v : LinkId, t.views[v].settings = s.views[v].settings)
    (ha : ∀ v : LinkId, t.attention[v].condition = s.attention[v].condition ∧
      t.attention[v].timer = s.attention[v].timer ∧ t.attention[v].line = s.attention[v].line)
    (h : attentionCurrent s) : attentionCurrent t := by
  unfold attentionCurrent lineLevel linkEnabled at *
  simp only [hp, hst, hc, hv, ha]
  exact h

/-- An event that leaves the channels, views, rings and attention outputs alone. -/
theorem attentionCurrent_congr_fields {s t : State} (hp : t.phase = s.phase) (hst : t.straps = s.straps)
    (hc : t.channels = s.channels) (hv : t.views = s.views) (hr : t.rings = s.rings)
    (ha : t.attention = s.attention) (h : attentionCurrent s) : attentionCurrent t :=
  attentionCurrent_congr hp hst (fun v => by unfold attentionCondition; rw [hc, hv, hr])
    (fun v => by rw [hv]) (fun v => by rw [ha]; exact ⟨rfl, rfl, rfl⟩) h

/-- An update that keeps a part of its register keeps that part of every register. -/
theorem get_upd_keeps {α β : Type} {n : Nat} {v : Vector α n} {i : Fin n} {f : α → α} (g : α → β)
    (h : g (f v[i]) = g v[i]) (j : Fin n) : g (upd v i f)[j] = g v[j] := by
  by_cases hj : j = i
  · subst hj; rw [get_upd_eq, h]
  · rw [get_upd_ne hj]

/-- A change of a view that keeps its settings, accounts and notice. -/
theorem modView_attentionCurrent {s : State} {l : LinkId} {f : View → View}
    (hs : ∀ v, (f v).settings = v.settings) (ha : ∀ v, (f v).accounts = v.accounts)
    (hl : ∀ v, (f v).leaseLost = v.leaseLost) (h : attentionCurrent s) : attentionCurrent (s.modView l f) := by
  refine attentionCurrent_congr (s := s) rfl rfl (fun v => conditionOf_congr (fun _ => rfl) ?_ ?_ ?_ rfl rfl)
    (get_upd_keeps View.settings (hs _)) (fun _ => ⟨rfl, rfl, rfl⟩) h
  · exact get_upd_keeps View.settings (hs _) v
  · exact get_upd_keeps View.accounts (ha _) v
  · exact get_upd_keeps View.leaseLost (hl _) v

/-- A change of a ring that keeps its counts. -/
theorem modRing_attentionCurrent {s : State} {l : LinkId} {f : Ring → Ring} (hn : ∀ r, (f r).count = r.count)
    (hd : ∀ r, (f r).dropped = r.dropped) (h : attentionCurrent s) : attentionCurrent (s.modRing l f) :=
  attentionCurrent_congr (s := s) rfl rfl
    (fun v => conditionOf_congr (fun _ => rfl) rfl rfl rfl (get_upd_keeps Ring.count (hn _) v)
      (get_upd_keeps Ring.dropped (hd _) v))
    (fun _ => rfl) (fun _ => ⟨rfl, rfl, rfl⟩) h

/-- A change of a channel record that keeps its state. -/
theorem modChannel_attentionCurrent {s : State} {c : ChannelId} {f : Channel → Channel}
    (hf : ∀ ch, (f ch).state = ch.state) (h : attentionCurrent s) : attentionCurrent (s.modChannel c f) :=
  attentionCurrent_congr (s := s) rfl rfl
    (fun _ => conditionOf_congr (get_upd_keeps Channel.state (hf _)) rfl rfl rfl rfl rfl)
    (fun _ => rfl) (fun _ => ⟨rfl, rfl, rfl⟩) h

theorem timerAfter_of_not_pulse {mode : AttentionMode} {a : Attention} {now : Bool} (h : mode ≠ .pulse) :
    timerAfter mode a now = .quiet := by
  cases mode with
  | off => rfl
  | level => rfl
  | pulse => exact absurd rfl h

/-- R66 to R70: the evaluation of attention makes every output current. -/
theorem attendAll_attentionCurrent (s : State) : attentionCurrent (attendAll s) := by
  intro _ v
  rw [attendAll_attention]
  exact ⟨rfl, rfl, fun hm => timerAfter_of_not_pulse hm⟩

theorem attentionCurrent_of_not_running {s : State} (h : s.phase ≠ .running) : attentionCurrent s :=
  fun hr => absurd hr h

/-! ## Events -/

theorem leaseExpiryEvent_attentionCurrent {s : State} (h : attentionCurrent s) :
    attentionCurrent (leaseExpiryEvent s) := by
  unfold leaseExpiryEvent
  split
  · exact attendAll_attentionCurrent _
  · exact h
  · exact h

theorem pulseTickEvent_attentionCurrent {v : LinkId} {s : State} (h : attentionCurrent s) :
    attentionCurrent (pulseTickEvent v s) := by
  unfold pulseTickEvent
  split
  · exact attendAll_attentionCurrent _
  · exact h

theorem confirmEvent_attentionCurrent {t : TriggerId} {s : State} (h : attentionCurrent s) :
    attentionCurrent (confirmEvent t s) := by
  unfold confirmEvent
  dsimp only
  split
  · split
    · exact attendAll_attentionCurrent _
    · exact h
  · exact h

theorem settleTick_attentionCurrent {s : State} (h : attentionCurrent s) : attentionCurrent (settleTick s) := by
  unfold settleTick
  refine foldl_preserves attentionCurrent _ (fun _ _ => pulseTickEvent_attentionCurrent) _ _ ?_
  refine foldl_preserves attentionCurrent _ (fun _ _ => confirmEvent_attentionCurrent) _ _ ?_
  refine leaseExpiryEvent_attentionCurrent ?_
  exact attentionCurrent_congr_fields (by simp) (by simp) (by simp) (by simp) (by simp) (by simp) h

/-- R68: a tick leaves each pulse timer a tick to take, and nothing else of attention changes. -/
theorem advance_attentionCurrent {trg : BitVec 4} {s : State} (h : attentionCurrent s) :
    attentionCurrent (advance trg s) :=
  attentionCurrent_congr (s := s) rfl rfl (fun _ => rfl) (fun _ => rfl)
    (fun v => by simp [advance, Attention.ticked]) h

theorem exchangeEvent_attentionCurrent {sdi : List (Samples 8)} {s : State} (h : attentionCurrent s) :
    attentionCurrent (exchangeEvent sdi s) := by
  unfold exchangeEvent
  split
  · exact h
  · split
    · exact h
    · exact attendAll_attentionCurrent _

theorem deliverFrame_attentionCurrent {l : LinkId} {kind : ReplyKind} {s : State} (h : attentionCurrent s) :
    attentionCurrent (deliverFrame l kind s) := by
  cases kind with
  | motionReport =>
    show attentionCurrent (deliverMotion l s)
    unfold deliverMotion
    split
    · exact h
    · exact attendAll_attentionCurrent _
  | captureReport =>
    show attentionCurrent (deliverCapture l s)
    unfold deliverCapture
    split
    · exact h
    · exact attendAll_attentionCurrent _
  | linkStatusData =>
    show attentionCurrent (deliverStatus l s)
    unfold deliverStatus
    split
    · exact h
    · exact attendAll_attentionCurrent _
  | settingData => exact h
  | result => exact h
  | errorReport => exact h
  | turn => exact h

theorem send_attentionCurrent {l : LinkId} {f : TxFrame} {s : State} (h : attentionCurrent s) :
    attentionCurrent (send l f s) := h

theorem sendResult_attentionCurrent {l : LinkId} {r : Request} {code : ResultCode} {s : State}
    (h : attentionCurrent s) : attentionCurrent (sendResult l r code s) := h

/-- R147: a request changes no input of attention, or evaluates it. -/
theorem runRequest_attentionCurrent {l : LinkId} {r : Request} {s : State} (h : attentionCurrent s) :
    attentionCurrent (runRequest l r s) := by
  cases r with
  | motionRead mask options =>
    show attentionCurrent (runMotionRead l mask options s)
    unfold runMotionRead
    split
    · exact send_attentionCurrent (modView_attentionCurrent (fun _ => rfl) (fun _ => rfl) (fun _ => rfl) h)
    · exact sendResult_attentionCurrent h
  | captureRead n =>
    show attentionCurrent (runCaptureRead l n s)
    unfold runCaptureRead
    split
    · exact sendResult_attentionCurrent h
    · exact send_attentionCurrent (modRing_attentionCurrent (fun _ => rfl) (fun _ => rfl) h)
  | viewReset => exact sendResult_attentionCurrent (attendAll_attentionCurrent _)
  | settingWrite payload =>
    show attentionCurrent (runSettingWrite l payload s)
    unfold runSettingWrite
    split
    · exact sendResult_attentionCurrent h
    · exact sendResult_attentionCurrent (attendAll_attentionCurrent _)
  | preset payload =>
    show attentionCurrent (runPreset l payload s)
    unfold runPreset
    split
    · exact sendResult_attentionCurrent h
    · exact sendResult_attentionCurrent (modChannel_attentionCurrent (fun _ => rfl) h)
  | _ =>
    exact attentionCurrent_congr_fields (by simp [runRequest]) (by simp [runRequest]) (by simp [runRequest])
      (by simp [runRequest]) (by simp [runRequest]) (by simp [runRequest]) h

theorem execute_attentionCurrent {l : LinkId} {r : Request} {rest : List Request} {s : State}
    (h : attentionCurrent s) : attentionCurrent (execute l r rest s) :=
  attentionCurrent_congr_fields (s := runRequest l r (popped l rest s)) (by simp [execute, popped])
    (by simp [execute, popped]) (by simp [execute, popped]) (by simp [execute, popped]) (by simp [execute, popped])
    (by simp [execute, popped]) (runRequest_attentionCurrent (s := popped l rest s) h)

theorem breakEvent_attentionCurrent {l : LinkId} {order : BreakOrder} {s : State} (h : attentionCurrent s) :
    attentionCurrent (breakEvent l order s) := by
  by_cases hr : s.links[l].receiver = .awaitMark true
  · unfold breakEvent; rw [hr]; exact h
  · rw [breakEvent_taken hr]
    exact attendAll_attentionCurrent _

/-! ## Every step -/

theorem turnKeeps_attentionCurrent : TurnKeeps attentionCurrent fun _ => attentionCurrent where
  guard _ _ _ _ h := h
  deliver _ _ _ _ _ := deliverFrame_attentionCurrent
  execute _ _ _ _ _ _ := execute_attentionCurrent
  closing _ _ _ := attentionCurrent_congr_fields (by simp) (by simp) (by simp) (by simp) (by simp) (by simp)
  turn _ _ _ h := h
  endTurn _ _ _ h := h

theorem commandsKeep_attentionCurrent : CommandsKeep attentionCurrent fun _ => attentionCurrent where
  turns := turnKeeps_attentionCurrent
  pending _ _ h := h
  reset _ := attentionCurrent_of_not_running Phase.noConfusion
  release _ _ _ := attentionCurrent_of_not_running Phase.noConfusion
  straps _ _ _ _ _ := attendAll_attentionCurrent _
  tick _ _ _ h := advance_attentionCurrent (settleTick_attentionCurrent h)
  due _ _ _ := attentionCurrent_congr_fields (by simp) (by simp) (by simp) (by simp) (by simp) (by simp)
  lease _ _ := leaseExpiryEvent_attentionCurrent
  pulse _ _ _ := pulseTickEvent_attentionCurrent
  confirm _ _ _ := confirmEvent_attentionCurrent
  grant _ _ := attentionCurrent_congr_fields (by simp) (by simp) (by simp) (by simp) (by simp) (by simp)
  exchange _ _ _ := exchangeEvent_attentionCurrent
  character _ _ _ _ := attentionCurrent_congr_fields (by simp) (by simp) (by simp) (by simp) (by simp) (by simp)
  fourthByte _ _ _ _ := attentionCurrent_congr_fields (by simp) (by simp) (by simp) (by simp) (by simp) (by simp)
  lastCrcByte _ _ _ _ := attentionCurrent_congr_fields (by simp) (by simp) (by simp) (by simp) (by simp) (by simp)
  timeout _ _ _ h := h
  framing _ _ _ := attentionCurrent_congr_fields (by simp) (by simp) (by simp) (by simp) (by simp) (by simp)
  endDiscard _ _ _ h := h
  contention _ _ _ := attentionCurrent_congr_fields (by simp) (by simp) (by simp) (by simp) (by simp) (by simp)
  lineBreak _ _ _ _ := breakEvent_attentionCurrent
  returnToMark _ _ _ h := h

/-- Settles O58: every change of which a command is made keeps attention current. -/
theorem stepKeepsAttentionCurrent : Obligations.StepKeepsAttentionCurrent := by
  unfold Obligations.StepKeepsAttentionCurrent
  exact fun _ _ => commandsKeep_attentionCurrent.step

end Sys2Proof.Machine

/-! PROOFS. O57: the channel states stay in step with the enable settings, the scheduler's flags and the exchange in
flight (R1, R2, R7, R34, R45). -/

namespace Sys2Proof.Machine

/-! ## One channel, and the exchange in flight -/

/-- R1, R2, R34, R45: what the invariant says of one channel. -/
def channelSound (phase : Phase) (cs : ChannelSettings) (ch : Channel) (p : Poll) : Prop :=
  (ch.state = .off ↔ cs.enable = false) ∧
    (ch.state = .off → p.due = false ∧ p.priority = false ∧ p.countdown = .stopped) ∧
    (p.priority = true → ch.state = .active) ∧ (phase ≠ .running → ch.state = .off)

/-- R7: what the invariant says of the exchange in flight. -/
def exchangeSound (channels : Vector Channel 8) (x : Option Exchange) : Prop :=
  ∀ e, x = some e → e.discard = false → kindFor channels[e.channel].state = some e.kind

theorem channelsConsistent_iff {s : State} :
    channelsConsistent s ↔
      (∀ c : ChannelId, channelSound s.phase s.settings.channels[c] s.channels[c] s.polls[c]) ∧
        exchangeSound s.channels s.bus.exchange := Iff.rfl

theorem exchangeSound_none (channels : Vector Channel 8) : exchangeSound channels none := fun _ h => by cases h

theorem exchangeSound_congr {channels channels' : Vector Channel 8} {x : Option Exchange}
    (hc : ∀ c : ChannelId, channels'[c].state = channels[c].state) (h : exchangeSound channels x) :
    exchangeSound channels' x := fun e he hd => by rw [hc]; exact h e he hd

/-- R24: the channel of an exchange without the discard mark is not OFF. -/
theorem state_ne_off_of_exchange {channels : Vector Channel 8} {e : Exchange} (h : exchangeSound channels (some e))
    (hd : e.discard = false) : channels[e.channel].state ≠ .off := fun ho => by
  have hk := h e rfl hd
  rw [ho] at hk
  cases hk

/-- A running channel that is not OFF, with its enable at 1. -/
theorem channelSound_of_on {phase : Phase} {cs : ChannelSettings} {ch : Channel} {p : Poll} (hr : phase = .running)
    (he : cs.enable = true) (hs : ch.state ≠ .off) (hp : p.priority = true → ch.state = .active) :
    channelSound phase cs ch p :=
  ⟨⟨fun h => absurd h hs, fun h => by rw [he] at h; cases h⟩, fun h => absurd h hs, hp, fun h => absurd hr h⟩

theorem enable_of_on {phase : Phase} {cs : ChannelSettings} {ch : Channel} {p : Poll}
    (h : channelSound phase cs ch p) (hs : ch.state ≠ .off) : cs.enable = true := by
  have hne : ¬ cs.enable = false := fun he => hs (h.1.2 he)
  simpa using hne

theorem priority_of_not_active {phase : Phase} {cs : ChannelSettings} {ch : Channel} {p : Poll}
    (h : channelSound phase cs ch p) (hs : ch.state ≠ .active) : p.priority = false := by
  have hne : ¬ p.priority = true := fun hp => hs (h.2.2.1 hp)
  simpa using hne

/-- Nothing that the invariant looks at is different. -/
theorem channelSound_congr {phase : Phase} {cs cs' : ChannelSettings} {ch ch' : Channel} {p p' : Poll}
    (he : cs'.enable = cs.enable) (hs : ch'.state = ch.state) (hd : p'.due = p.due)
    (hp : p'.priority = p.priority) (hc : p'.countdown = p.countdown) (h : channelSound phase cs ch p) :
    channelSound phase cs' ch' p' := by
  unfold channelSound at *
  rw [he, hs, hd, hp, hc]
  exact h

theorem channelsConsistent_congr {s t : State} (hp : t.phase = s.phase) (hs : t.settings = s.settings)
    (hc : t.channels = s.channels) (hq : t.polls = s.polls) (hb : t.bus = s.bus) (h : channelsConsistent s) :
    channelsConsistent t := by
  rw [channelsConsistent_iff, hp, hs, hc, hq, hb]
  exact h

theorem attendAll_channelsConsistent {s : State} (h : channelsConsistent s) : channelsConsistent (attendAll s) := h

/-! ## The scheduler's own events -/

/-- An update of one poll that keeps its channel sound keeps the channels consistent. -/
theorem modPoll_channelsConsistent {s : State} {c : ChannelId} {f : Poll → Poll} (h : channelsConsistent s)
    (hf : channelSound s.phase s.settings.channels[c] s.channels[c] s.polls[c] →
      channelSound s.phase s.settings.channels[c] s.channels[c] (f s.polls[c])) :
    channelsConsistent (s.modPoll c f) := by
  refine channelsConsistent_iff.2 ⟨fun d => ?_, h.2⟩
  rw [State.modPoll_polls]
  by_cases hd : d = c
  · subst hd; rw [get_upd_eq]; exact hf (h.1 d)
  · rw [get_upd_ne hd]; exact h.1 d

theorem dueExpiryEvent_channelsConsistent {c : ChannelId} {s : State} (h : channelsConsistent s) :
    channelsConsistent (dueExpiryEvent c s) := by
  unfold dueExpiryEvent
  split
  · next he =>
    refine modPoll_channelsConsistent h fun hc => ⟨hc.1, fun ho => ?_, hc.2.2⟩
    have hst := (hc.2.1 ho).2.2
    rw [he] at hst
    cases hst
  · exact h
  · exact h

/-- R46: a REFRESH capture sets the priority flag of ACTIVE channels alone. -/
theorem requestRefresh_channelsConsistent {s : State} {t : TriggerId} (h : channelsConsistent s) :
    channelsConsistent (requestRefresh s t) := by
  refine channelsConsistent_iff.2 ⟨fun c => ?_, h.2⟩
  have hp : (requestRefresh s t).polls[c] =
      if s.settings.triggers[t].mode = .refresh ∧ s.settings.triggers[t].mask.getLsbD c.val = true ∧
          s.channels[c].state = .active then
        { s.polls[c] with priority := true }
      else s.polls[c] := by simp [requestRefresh]
  rw [hp]
  split
  · next hrf =>
    have hact : s.channels[c].state = .active := hrf.2.2
    refine ⟨(h.1 c).1, fun ho => ?_, fun _ => hact, (h.1 c).2.2.2⟩
    rw [show (requestRefresh s t).channels = s.channels from rfl, hact] at ho
    cases ho
  · exact h.1 c

theorem openCapture_channelsConsistent {t : TriggerId} {e : Edge} {s : State} (h : channelsConsistent s) :
    channelsConsistent (openCapture t e s) :=
  channelsConsistent_congr (s := requestRefresh s t) (by simp) (by simp) (by simp) (by simp [openCapture]) (by simp)
    (requestRefresh_channelsConsistent h)

theorem confirmEvent_channelsConsistent {t : TriggerId} {s : State} (h : channelsConsistent s) :
    channelsConsistent (confirmEvent t s) := by
  unfold confirmEvent
  dsimp only
  split
  · split
    · unfold qualifiedEdge
      split
      · exact openCapture_channelsConsistent (s := s.modTrigger t _) h
      · exact h
    · exact h
  · exact h

theorem settleTick_channelsConsistent {s : State} (h : channelsConsistent s) : channelsConsistent (settleTick s) := by
  unfold settleTick
  refine channelsConsistent_congr (by simp) (by simp) (by simp) (pulseTicks_frame _ _).2.2.2.2.2.1 (by simp) ?_
  refine foldl_preserves channelsConsistent _ (fun _ _ => confirmEvent_channelsConsistent) _ _ ?_
  refine channelsConsistent_congr (by simp) (by simp) (by simp) (leaseExpiryEvent_frame _).2.2.2.2.2.1 (by simp) ?_
  exact foldl_preserves channelsConsistent _ (fun _ _ => dueExpiryEvent_channelsConsistent) _ _ h

theorem advance_channelsConsistent {trg : BitVec 4} {s : State} (h : channelsConsistent s) :
    channelsConsistent (advance trg s) := by
  refine channelsConsistent_iff.2 ⟨fun c => ?_, h.2⟩
  have hp : (advance trg s).polls[c] = s.polls[c].ticked := by simp [advance]
  rw [hp]
  obtain ⟨hiff, hoff, hrest⟩ := h.1 c
  refine ⟨hiff, fun ho => ?_, hrest⟩
  obtain ⟨hd, hpr, hc⟩ := hoff ho
  exact ⟨hd, hpr, (Countdown.tick_eq_stopped_iff _).2 hc⟩

/-! ## Grants -/

theorem granted_channelSound {phase : Phase} {cs : ChannelSettings} {ch : Channel} {p : Poll}
    (h : channelSound phase cs ch p) : channelSound phase cs ch p.granted :=
  ⟨h.1, fun _ => ⟨rfl, rfl, rfl⟩, fun hp => (by cases hp), h.2.2.2⟩

theorem grantTo_channelsConsistent {c : ChannelId} {kind : ExchangeKind} {s : State}
    (hk : kindFor s.channels[c].state = some kind) (h : channelsConsistent s) :
    channelsConsistent (grantTo c kind s) := by
  refine channelsConsistent_iff.2 ⟨fun d => ?_, fun e he _ => ?_⟩
  · have hp : (grantTo c kind s).polls = upd s.polls c Poll.granted := by simp [grantTo]
    rw [show (grantTo c kind s).phase = s.phase by simp, show (grantTo c kind s).settings = s.settings by simp,
      show (grantTo c kind s).channels = s.channels by simp, hp]
    by_cases hd : d = c
    · subst hd; rw [get_upd_eq]; exact granted_channelSound (h.1 d)
    · rw [get_upd_ne hd]; exact h.1 d
  · rw [show (grantTo c kind s).channels = s.channels by simp]
    cases he
    exact hk

theorem grantEvent_channelsConsistent {s : State} (h : channelsConsistent s) : channelsConsistent (grantEvent s) := by
  unfold grantEvent
  split
  · split
    · next hk => exact grantTo_channelsConsistent hk h
    · exact h
  · exact h

/-! ## Completions -/

/-- A change of one channel and its poll, with no exchange in flight after it. -/
theorem channelsConsistent_of_one {s t : State} {c : ChannelId} {f : Channel → Channel} {g : Poll → Poll}
    (hp : t.phase = s.phase) (hs : t.settings = s.settings) (hc : t.channels = upd s.channels c f)
    (hq : t.polls = upd s.polls c g) (hx : exchangeSound t.channels t.bus.exchange) (h : channelsConsistent s)
    (hone : channelSound s.phase s.settings.channels[c] s.channels[c] s.polls[c] →
      channelSound s.phase s.settings.channels[c] (f s.channels[c]) (g s.polls[c])) : channelsConsistent t := by
  refine channelsConsistent_iff.2 ⟨fun d => ?_, hx⟩
  rw [hp, hs, hc, hq]
  by_cases hd : d = c
  · subst hd; rw [get_upd_eq, get_upd_eq]; exact hone (h.1 d)
  · rw [get_upd_ne hd, get_upd_ne hd]; exact h.1 d

theorem identifyFailed_state {cause : FaultCause} {ch : Channel} (h : ch.state = .identify ∨ ch.state = .faulted) :
    (ch.identifyFailed cause).state = .identify ∨ (ch.identifyFailed cause).state = .faulted := by
  unfold Channel.identifyFailed
  obtain h | h := h
  · rw [h]
    dsimp only
    split
    · exact .inr rfl
    · exact .inl rfl
  · rw [h]; exact .inr rfl

theorem motionFailed_state (cause : FaultCause) (ch : Channel) :
    (ch.motionFailed cause).state = .active ∨ (ch.motionFailed cause).state = .faulted := by
  unfold Channel.motionFailed
  dsimp only
  split
  · exact .inr rfl
  · exact .inl rfl

section
variable {s : State} {c : ChannelId}

theorem identifySuccess_channelsConsistent (hr : s.phase = .running) (hx : s.bus.exchange = none)
    (hon : s.channels[c].state ≠ .off) (h : channelsConsistent s) : channelsConsistent (identifySuccess c s) :=
  channelsConsistent_of_one (by simp) (by simp) rfl rfl
    (by rw [show (identifySuccess c s).bus = s.bus from rfl, hx]; exact exchangeSound_none _) h
    fun hc => channelSound_of_on hr (enable_of_on hc hon) (fun e => by cases e) fun _ => rfl

theorem identifyFailure_channelsConsistent {cause : FaultCause} (hr : s.phase = .running)
    (hx : s.bus.exchange = none) (hst : s.channels[c].state = .identify ∨ s.channels[c].state = .faulted)
    (h : channelsConsistent s) : channelsConsistent (identifyFailure c cause s) := by
  have hon : s.channels[c].state ≠ .off := by obtain e | e := hst <;> rw [e] <;> exact ChannelState.noConfusion
  have hna : s.channels[c].state ≠ .active := by obtain e | e := hst <;> rw [e] <;> exact ChannelState.noConfusion
  refine channelsConsistent_of_one (by simp) (by simp) rfl rfl
    (by rw [show (identifyFailure c cause s).bus = s.bus from rfl, hx]; exact exchangeSound_none _) h
    fun hc => channelSound_of_on hr (enable_of_on hc hon) ?_ fun hp => ?_
  · obtain e | e := identifyFailed_state (cause := cause) hst <;> rw [e] <;> exact ChannelState.noConfusion
  · rw [show (Poll.reload _ _ s.polls[c]).priority = s.polls[c].priority from rfl,
      priority_of_not_active hc hna] at hp
    cases hp

theorem motionSuccess_channelsConsistent {x y : BitVec 12} {q : Byte} (hr : s.phase = .running)
    (hx : s.bus.exchange = none) (ha : s.channels[c].state = .active) (h : channelsConsistent s) :
    channelsConsistent (motionSuccess c x y q s) := by
  refine channelsConsistent_of_one (f := Channel.moved x y) (by simp) (by simp)
    (by simp [motionSuccess]) (motionSuccess_polls c x y q s)
    (by rw [show (motionSuccess c x y q s).bus = s.bus by simp, hx]; exact exchangeSound_none _) h
    fun hc => channelSound_of_on hr (enable_of_on hc (by rw [ha]; exact ChannelState.noConfusion)) ?_ fun _ => ha
  rw [show (Channel.moved x y s.channels[c]).state = s.channels[c].state from rfl, ha]
  exact ChannelState.noConfusion

theorem motionFailed_priority {cs : ChannelSettings} {ch : Channel} {p : Poll}
    (hst : ch.state = .active ∨ ch.state = .faulted) (h : (p.motionFailed cs ch).priority = true) :
    ch.state = .active := by
  obtain e | e := hst
  · exact e
  · rw [Poll.motionFailed, if_pos e] at h
    cases h

/-- R12, R44: the channel's record and its poll after a motion failure. -/
theorem motionFailure_polls (c : ChannelId) (cause : FaultCause) (s : State) :
    (motionFailure c cause s).polls =
      upd s.polls c (Poll.motionFailed s.settings.channels[c] (s.channels[c].motionFailed cause)) := by
  simp [motionFailure]

theorem motionFailure_channels (c : ChannelId) (cause : FaultCause) (s : State) :
    (motionFailure c cause s).channels = upd s.channels c (Channel.motionFailed cause) := by
  simp [motionFailure]

theorem motionFailure_channelsConsistent {cause : FaultCause} (hr : s.phase = .running)
    (hx : s.bus.exchange = none) (ha : s.channels[c].state = .active) (h : channelsConsistent s) :
    channelsConsistent (motionFailure c cause s) := by
  refine channelsConsistent_of_one (by simp) (by simp) (motionFailure_channels c cause s)
    (motionFailure_polls c cause s)
    (by rw [show (motionFailure c cause s).bus = s.bus by simp, hx]; exact exchangeSound_none _) h
    fun hc => channelSound_of_on hr (enable_of_on hc (by rw [ha]; exact ChannelState.noConfusion)) ?_
      (motionFailed_priority (motionFailed_state cause _))
  obtain e | e := motionFailed_state cause s.channels[c] <;> rw [e] <;> exact ChannelState.noConfusion

end

theorem applyCompletion_channelsConsistent {e : Exchange} {o : ExchangeOutcome} {s : State}
    (hr : s.phase = .running) (hx : s.bus.exchange = none) (h : channelsConsistent s) :
    channelsConsistent (applyCompletion e o s) := by
  unfold applyCompletion
  split
  · exact channelsConsistent_congr (by simp) (by simp) (by simp) (by simp) (by simp) h
  · unfold applyOutcome
    split
    case h_1 _ hst =>
      exact identifySuccess_channelsConsistent hr hx (by rw [hst]; exact ChannelState.noConfusion) h
    case h_2 _ hst =>
      exact identifySuccess_channelsConsistent hr hx (by rw [hst]; exact ChannelState.noConfusion) h
    case h_3 _ hst => exact identifyFailure_channelsConsistent hr hx (.inl hst) h
    case h_4 _ hst => exact identifyFailure_channelsConsistent hr hx (.inr hst) h
    case h_5 _ hst => exact motionSuccess_channelsConsistent hr hx hst h
    case h_6 _ hst => exact motionFailure_channelsConsistent hr hx hst h
    case h_7 => exact h

theorem exchangeEvent_channelsConsistent {sdi : List (Samples 8)} {s : State} (hr : s.phase = .running)
    (h : channelsConsistent s) : channelsConsistent (exchangeEvent sdi s) := by
  unfold exchangeEvent
  split
  · exact h
  · next e he =>
    split
    · next e' hc =>
      obtain ⟨hch, hkind, hdis⟩ := clockBytes_keeps.1 e' hc
      refine channelsConsistent_iff.2 ⟨h.1, fun x hx hd => ?_⟩
      cases hx
      have hk := h.2 e he (hdis.symm.trans hd)
      simp only [hch, hkind]
      exact hk
    · exact attendAll_channelsConsistent
        (applyCompletion_channelsConsistent (s := { s with bus := { s.bus with exchange := none } }) hr rfl
          ⟨h.1, exchangeSound_none _⟩)

/-! ## Enable, disable and forced tier -/

section
variable {s : State} {c : ChannelId}

/-- R4, R45: a channel whose enable becomes 1. -/
theorem enableChannel_channelsConsistent {cs : ChannelSettings} (hr : s.phase = .running)
    (hoff : s.settings.channels[c].enable = false) (hon : cs.enable = true) (h : channelsConsistent s) :
    channelsConsistent (enableChannel c { s with settings := { s.settings with
      channels := put s.settings.channels c cs } }) := by
  have hst : s.channels[c].state = .off := (h.1 c).1.2 hoff
  refine channelsConsistent_iff.2 ⟨fun d => ?_, fun e he hd => ?_⟩
  · simp only [enableChannel, State.modPoll_polls, State.modPoll_channels, State.modChannel_channels,
      State.modPoll_settings, State.modChannel_settings, State.modPoll_phase, State.modChannel_phase,
      State.modChannel_polls]
    by_cases hdc : d = c
    · subst hdc
      rw [get_put_eq, get_upd_eq, get_upd_eq]
      refine channelSound_of_on hr hon ChannelState.noConfusion fun hp => ?_
      rw [show ({ s.polls[d] with due := true } : Poll).priority = s.polls[d].priority from rfl,
        ((h.1 d).2.1 hst).2.1] at hp
      cases hp
    · rw [get_put_ne hdc, get_upd_ne hdc, get_upd_ne hdc]
      exact h.1 d
  · have hne : e.channel ≠ c := fun hc => by
      have hnoff := state_ne_off_of_exchange (channels := s.channels) (e := e) (he ▸ h.2) hd
      exact hnoff (by simp only [hc]; exact hst)
    show kindFor (upd s.channels c Channel.enabled)[e.channel].state = _
    rw [get_upd_ne hne]
    exact h.2 e he hd

/-- R5, R30: the discard mark, on an exchange of the channel alone. -/
theorem markDiscard_exchange (c : ChannelId) (b : Bus) :
    (markDiscard c b).exchange = b.exchange.map fun e => if e.channel = c then { e with discard := true } else e := by
  unfold markDiscard
  cases hx : b.exchange with
  | none => exact hx
  | some e =>
    rw [Option.map_some]
    dsimp only
    split
    · rfl
    · exact hx

@[simp] theorem markDiscard_pointer (c : ChannelId) (b : Bus) : (markDiscard c b).pointer = b.pointer := by
  unfold markDiscard
  split
  · rfl
  · split <;> rfl

theorem disableChannel_channels (c : ChannelId) (s : State) :
    (disableChannel c s).channels = upd s.channels c Channel.disabled := by simp [disableChannel]

theorem disableChannel_polls (c : ChannelId) (s : State) :
    (disableChannel c s).polls = upd s.polls c Poll.disabled := by simp [disableChannel]

theorem disableChannel_bus (c : ChannelId) (s : State) : (disableChannel c s).bus = markDiscard c s.bus := by
  simp [disableChannel]

/-- R5, R45: a channel whose enable becomes 0. -/
theorem disableChannel_channelsConsistent {cs : ChannelSettings} (hoff : cs.enable = false)
    (h : channelsConsistent s) :
    channelsConsistent (disableChannel c { s with settings := { s.settings with
      channels := put s.settings.channels c cs } }) := by
  refine channelsConsistent_iff.2 ⟨fun d => ?_, fun e he hd => ?_⟩
  · rw [disableChannel_channels, disableChannel_polls]
    simp only [disableChannel_frame]
    by_cases hdc : d = c
    · subst hdc
      rw [get_put_eq, get_upd_eq, get_upd_eq]
      exact ⟨⟨fun _ => hoff, fun _ => rfl⟩, fun _ => ⟨rfl, rfl, rfl⟩, fun hp => (by cases hp), fun _ => rfl⟩
    · rw [get_put_ne hdc, get_upd_ne hdc, get_upd_ne hdc]
      exact h.1 d
  · rw [disableChannel_bus, markDiscard_exchange] at he
    obtain ⟨e0, he0, rfl⟩ := Option.map_eq_some_iff.1 he
    by_cases hc : e0.channel = c
    · rw [if_pos hc] at hd; cases hd
    · simp only [if_neg hc] at hd ⊢
      simp only [disableChannel_channels]
      rw [get_upd_ne hc]
      exact h.2 e0 he0 hd

theorem applyForcedTier_channelsConsistent {run : List Setting} {old new : Settings} (h : channelsConsistent s) :
    channelsConsistent (applyForcedTier run old new s c) := by
  unfold applyForcedTier
  split
  · split
    · exact modPoll_channelsConsistent h (channelSound_congr rfl rfl rfl rfl rfl)
    · exact modPoll_channelsConsistent h (channelSound_congr rfl rfl rfl rfl rfl)
    · exact h
  · exact h

end

/-- An update of the settings that changes no channel's enable. -/
theorem withSettings_channelsConsistent {s : State} {new : Settings}
    (he : ∀ c : ChannelId, new.channels[c].enable = s.settings.channels[c].enable) (h : channelsConsistent s) :
    channelsConsistent { s with settings := new } :=
  channelsConsistent_iff.2 ⟨fun c => channelSound_congr (he c) rfl rfl rfl rfl (h.1 c), h.2⟩

theorem applyEnable_channelsConsistent {s : State} {c : ChannelId} {cs : ChannelSettings} (hr : s.phase = .running)
    (h : channelsConsistent s) :
    channelsConsistent (applyEnable s.settings { s.settings with channels := put s.settings.channels c cs }
      { s with settings := { s.settings with channels := put s.settings.channels c cs } } c) := by
  unfold applyEnable
  have same : cs.enable = s.settings.channels[c].enable → channelsConsistent { s with
      settings := { s.settings with channels := put s.settings.channels c cs } } := fun he =>
    withSettings_channelsConsistent (fun d => by
      by_cases hd : d = c
      · subst hd; rw [get_put_eq]; exact he
      · rw [get_put_ne hd]) h
  dsimp only
  rw [get_put_eq]
  split
  · next h1 h2 => exact enableChannel_channelsConsistent hr h1 h2 h
  · next h1 h2 => exact disableChannel_channelsConsistent h2 h
  · next h1 h2 => exact same (h2.trans h1.symm)
  · next h1 h2 => exact same (h2.trans h1.symm)

/-! ## Requests -/

theorem applyWrite_channelsConsistent {s : State} {l : LinkId} {p : List Byte} {w : AcceptedWrite}
    (hw : checkWrite s l p = .ok w) (hr : s.phase = .running) (h : channelsConsistent s) :
    channelsConsistent (applyWrite l w s) := by
  cases leftIn_of_ok hw with
  | channel c hrun hown hshared =>
    obtain ⟨cs, hs⟩ := hshared
    rw [applyWrite_channel hrun hown hs, hs]
    exact attendAll_channelsConsistent
      (applyForcedTier_channelsConsistent (applyEnable_channelsConsistent hr h))
  | trigger t hrun hown hshared =>
    obtain ⟨ts, hs⟩ := hshared
    rw [applyWrite_trigger hrun hown hs]
    refine attendAll_channelsConsistent (channelsConsistent_congr (by simp) (by simp) (by simp) (by simp) (by simp)
      (withSettings_channelsConsistent (s := s) (new := w.left.shared) (fun c => ?_) h))
    rw [hs]
  | global hrun hown hshared =>
    obtain ⟨n, hs⟩ := hshared
    rw [applyWrite_global hrun hown hs]
    refine attendAll_channelsConsistent (withSettings_channelsConsistent (fun c => ?_) h)
    rw [hs]
  | own hrun hs =>
    rw [applyWrite_own hrun hs]
    exact attendAll_channelsConsistent
      (channelsConsistent_congr (by simp) (by simp) (by simp) (by simp) (by simp) h)

theorem runRequest_channelsConsistent {l : LinkId} {r : Request} {s : State} (hr : s.phase = .running)
    (h : channelsConsistent s) : channelsConsistent (runRequest l r s) := by
  cases r with
  | settingWrite payload =>
    show channelsConsistent (runSettingWrite l payload s)
    unfold runSettingWrite
    split
    · exact channelsConsistent_congr (by simp) (by simp) (by simp) (by simp) (by simp) h
    · next w hw =>
      exact channelsConsistent_congr (s := applyWrite l w s) (by simp) (by simp) (by simp) (by simp) (by simp)
        (applyWrite_channelsConsistent hw hr h)
  | preset payload =>
    show channelsConsistent (runPreset l payload s)
    unfold runPreset
    split
    · exact channelsConsistent_congr (by simp) (by simp) (by simp) (by simp) (by simp) h
    · next c p _ =>
      have hst : ∀ d : ChannelId, (upd s.channels c (Channel.preset p.axes p.along p.across))[d].state =
          s.channels[d].state := get_upd_keeps Channel.state rfl
      exact ⟨fun d => channelSound_congr (cs' := s.settings.channels[d]) rfl (hst d) rfl rfl rfl (h.1 d),
        exchangeSound_congr hst h.2⟩
  | _ =>
    exact channelsConsistent_congr (by simp [runRequest]) (by simp [runRequest]) (by simp [runRequest])
      (by simp [runRequest]) (by simp [runRequest]) h

theorem execute_channelsConsistent {l : LinkId} {r : Request} {rest : List Request} {s : State}
    (hr : s.phase = .running) (h : channelsConsistent s) : channelsConsistent (execute l r rest s) :=
  channelsConsistent_congr (s := runRequest l r (popped l rest s)) (by simp [execute, popped])
    (by simp [execute, popped]) (by simp [execute, popped]) (by simp [execute, popped]) (by simp [execute, popped])
    (runRequest_channelsConsistent (s := popped l rest s) hr h)

/-! ## Strap sampling and reset -/

/-- R18, R45: strap sampling finds every channel OFF, and AUTOSTART enables them all. -/
theorem sampleStraps_channelsConsistent {st : Straps} {ld : BitVec 4} {s : State} (hp : s.phase ≠ .running)
    (h : channelsConsistent s) : channelsConsistent (sampleStraps st ld s) := by
  have hoff : ∀ c : ChannelId, s.channels[c].state = .off := fun c => (h.1 c).2.2.2 hp
  have hset : ∀ c : ChannelId, (sampleStraps st ld s).settings.channels[c] =
      firstChannelSettings st s.settings.channels[c] := fun c => by simp [sampleStraps]
  have hchan : ∀ c : ChannelId, (sampleStraps st ld s).channels[c] = firstChannel st s.channels[c] :=
    fun c => by simp [sampleStraps]
  have hpoll : ∀ c : ChannelId, (sampleStraps st ld s).polls[c] = firstPoll st s.polls[c] :=
    fun c => by simp [sampleStraps]
  refine channelsConsistent_iff.2 ⟨fun c => ?_, fun e he hd => ?_⟩
  · rw [hset, hchan, hpoll]
    obtain ⟨hiff, hidle, hprio, -⟩ := h.1 c
    cases ha : st.autostart with
    | false =>
      simp only [firstChannelSettings, firstChannel, firstPoll, ha]
      exact ⟨hiff, hidle, hprio, fun _ => hoff c⟩
    | true =>
      simp only [firstChannelSettings, firstChannel, firstPoll, ha, if_true]
      refine channelSound_of_on rfl rfl ChannelState.noConfusion fun hp' => ?_
      rw [show ({ s.polls[c] with due := true } : Poll).priority = s.polls[c].priority from rfl,
        (hidle (hoff c)).2.1] at hp'
      cases hp'
  · have he' : s.bus.exchange = some e := he
    exact absurd (hoff e.channel) (state_ne_off_of_exchange (he' ▸ h.2) hd)

theorem channelsConsistent_reset (q : List Instr) : channelsConsistent { State.reset with pending := q } := by
  refine channelsConsistent_iff.2 ⟨fun c => ?_, exchangeSound_none _⟩
  rw [show ({ State.reset with pending := q } : State).settings.channels[c] = ChannelSettings.reset from
      get_replicate _ c,
    show ({ State.reset with pending := q } : State).channels[c] = Channel.reset from get_replicate _ c,
    show ({ State.reset with pending := q } : State).polls[c] = Poll.reset from get_replicate _ c]
  exact ⟨⟨fun _ => rfl, fun _ => rfl⟩, fun _ => ⟨rfl, rfl, rfl⟩, fun hp => (by cases hp), fun _ => rfl⟩

/-! ## Every step -/

theorem turnKeeps_channelsConsistent : TurnKeeps channelsConsistent fun _ => channelsConsistent where
  guard _ _ _ _ h := h
  deliver _ _ _ _ _ := channelsConsistent_congr (by simp) (by simp) (by simp) (by simp) (by simp)
  execute _ _ _ _ ho _ := execute_channelsConsistent (running_of_operating ho)
  closing _ _ _ := channelsConsistent_congr (by simp) (by simp) (by simp) (by simp) (by simp)
  turn _ _ _ h := h
  endTurn _ _ _ h := h

theorem commandsKeep_channelsConsistent : CommandsKeep channelsConsistent fun _ => channelsConsistent where
  turns := turnKeeps_channelsConsistent
  pending _ _ h := h
  reset := channelsConsistent_reset
  release s hp h := ⟨fun c => ⟨(h.1 c).1, (h.1 c).2.1, (h.1 c).2.2.1, fun _ =>
    (h.1 c).2.2.2 (by rw [hp]; exact Phase.noConfusion)⟩, h.2⟩
  straps _ _ s hp h := sampleStraps_channelsConsistent (s := { s with tickCount := s.tickCount + 1 })
    (show s.phase ≠ .running by rw [hp]; exact Phase.noConfusion) h
  tick _ _ _ h := advance_channelsConsistent (settleTick_channelsConsistent h)
  due _ _ _ := dueExpiryEvent_channelsConsistent
  lease _ _ := channelsConsistent_congr (by simp) (by simp) (by simp) (by simp) (by simp)
  pulse _ _ _ := channelsConsistent_congr (by simp) (by simp) (by simp) (by simp) (by simp)
  confirm _ _ _ := confirmEvent_channelsConsistent
  grant _ _ := grantEvent_channelsConsistent
  exchange _ _ hr := exchangeEvent_channelsConsistent hr
  character _ _ _ _ := channelsConsistent_congr (by simp) (by simp) (by simp) (by simp) (by simp)
  fourthByte _ _ _ _ := channelsConsistent_congr (by simp) (by simp) (by simp) (by simp) (by simp)
  lastCrcByte _ _ _ _ := channelsConsistent_congr (by simp) (by simp) (by simp) (by simp) (by simp)
  timeout _ _ _ h := h
  framing _ _ _ := channelsConsistent_congr (by simp) (by simp) (by simp) (by simp) (by simp)
  endDiscard _ _ _ h := h
  contention _ _ _ := channelsConsistent_congr (by simp) (by simp) (by simp) (by simp) (by simp)
  lineBreak _ _ _ _ := channelsConsistent_congr (by simp) (by simp) (by simp) (by simp) (by simp)
  returnToMark _ _ _ h := h

/-- Settles O57: every change of which a command is made keeps the channels consistent. -/
theorem stepKeepsChannelsConsistent : Obligations.StepKeepsChannelsConsistent := by
  unfold Obligations.StepKeepsChannelsConsistent
  exact fun _ _ => commandsKeep_channelsConsistent.step

end Sys2Proof.Machine

/-! PROOFS. O53: the request queues stay bounded (R145); the line stays with its owner, and a report or status in flight
with the frame that carries it (R136, R146, R151, R56, R117, R155). First the link records alone, then the reports of
the views and rings, then the turn of a link. -/

namespace Sys2Proof.Machine

/-! ## What the receiver does to its link -/

/-- What a byte, or the loss of a frame, may do to the record of a link that the client owns: the status record stays,
the queue stays within its bound, and the transmitter and the owner stay or are those of an accepted TURN. -/
def Link.hears (k k' : Link) : Prop :=
  k'.status = k.status ∧ (k.queue.length ≤ Config.queueMax → k'.queue.length ≤ Config.queueMax) ∧
    ((k'.owner = k.owner ∧ k'.tx = k.tx) ∨ (k'.owner = .am48 ∧ k'.tx = .guard ∧ k'.receiver = .idle))

/-- A change of the receiver, the counters and the summary alone. -/
theorem Link.hears_of_eq {k k' : Link} (hs : k'.status = k.status) (hq : k'.queue = k.queue)
    (ho : k'.owner = k.owner) (ht : k'.tx = k.tx) : k.hears k' :=
  ⟨hs, fun h => hq ▸ h, .inl ⟨ho, ht⟩⟩

theorem Link.discardWith_hears (k : Link) (x : LinkCondition) (r : Receiver) : k.hears (k.discardWith x r) :=
  hears_of_eq rfl rfl rfl rfl

theorem Link.abandonWith_hears (k : Link) (skip : Bool) (x : LinkCondition) (r : Receiver) :
    k.hears (k.abandonWith skip x r) := by
  unfold Link.abandonWith
  split
  · exact hears_of_eq rfl rfl rfl rfl
  · exact k.discardWith_hears x r

/-- R145: a request joins a queue that has room. -/
theorem Link.enqueue_hears (k : Link) (r : Request) : k.hears (k.enqueue r) := by
  unfold Link.enqueue
  split
  · next h => exact ⟨rfl, fun _ => by simpa using h, .inl ⟨rfl, rfl⟩⟩
  · exact k.discardWith_hears _ _

theorem Link.acceptTurn_hears (k : Link) : k.hears k.acceptTurn := ⟨rfl, id, .inr ⟨rfl, rfl, rfl⟩⟩

theorem Link.acceptQuiet_hears (k : Link) : k.hears k.acceptQuiet := hears_of_eq rfl rfl rfl rfl

theorem Link.shortArrived_hears (k : Link) (kind p0 p1 : Byte) : k.hears (k.shortArrived kind p0 p1) := by
  unfold Link.shortArrived
  split
  · exact k.acceptTurn_hears
  · split
    · exact k.acceptQuiet_hears
    · split
      · exact k.enqueue_hears _
      · exact k.discardWith_hears _ _

theorem Link.longHeader_hears (k : Link) (kind : Byte) (n : Nat) : k.hears (k.longHeader kind n) := by
  unfold Link.longHeader
  split
  · exact k.discardWith_hears _ _
  · split
    · exact hears_of_eq rfl rfl rfl rfl
    · exact k.discardWith_hears _ _

theorem Link.headerDecided_hears (k : Link) (h : BitVec 24) : k.hears (k.headerDecided h) := by
  unfold Link.headerDecided
  dsimp only
  split
  · exact k.shortArrived_hears _ _ _
  · exact k.longHeader_hears _ _

theorem Link.headerArrived_hears (k : Link) (x y z check : Byte) : k.hears (k.headerArrived x y z check) := by
  unfold Link.headerArrived
  dsimp only
  split
  · exact k.headerDecided_hears _
  · exact Link.headerDecided_hears (k.record .headerCorrected).countCorrected _
  · exact k.discardWith_hears _ _

theorem Link.longArrived_hears (k : Link) (kind : Byte) (payload : List Byte) (sum : Word) (skip : Bool) :
    k.hears (k.longArrived kind payload sum skip) := by
  unfold Link.longArrived
  split
  · exact hears_of_eq rfl rfl rfl rfl
  · split
    · split
      · exact k.acceptQuiet_hears
      · split
        · exact k.enqueue_hears _
        · exact hears_of_eq rfl rfl rfl rfl
    · exact k.discardWith_hears _ _

theorem Link.framingError_hears (k : Link) : k.hears k.framingError := by
  unfold Link.framingError
  split
  · exact k.discardWith_hears _ _
  · exact k.discardWith_hears _ _
  · exact k.abandonWith_hears _ _ _
  · exact k.abandonWith_hears _ _ _
  · exact hears_of_eq rfl rfl rfl rfl
  · exact hears_of_eq rfl rfl rfl rfl

theorem Link.timeout_hears (k : Link) : k.hears k.timeout := by
  unfold Link.timeout
  split
  · exact k.discardWith_hears _ _
  · exact k.abandonWith_hears _ _ _
  · exact k.abandonWith_hears _ _ _
  all_goals exact hears_of_eq rfl rfl rfl rfl

theorem Link.endDiscard_hears (k : Link) : k.hears k.endDiscard := by
  unfold Link.endDiscard
  split <;> exact hears_of_eq rfl rfl rfl rfl

theorem Link.markReturned_hears (k : Link) : k.hears k.markReturned := by
  unfold Link.markReturned
  split <;> exact hears_of_eq rfl rfl rfl rfl

/-- While no frame is being received these events find nothing to do. -/
theorem Link.quiet_events_of_idle {k : Link} (h : k.receiver = .idle) :
    k.timeout = k ∧ k.endDiscard = k ∧ k.markReturned = k := by
  unfold Link.timeout Link.endDiscard Link.markReturned
  rw [h]
  exact ⟨rfl, rfl, rfl⟩

/-! ## One link -/

/-- What the invariant says of one link; `motion` and `capture` say whether the view and the ring have a report in
flight. -/
structure linkSound (k : Link) (motion capture : Bool) : Prop where
  owner : k.owner = .client ↔ k.tx = .idle
  receiver : k.owner = .am48 → k.receiver = .idle
  left : ∀ f, k.tx = .sending f → f.left <:+ f.bytes
  motion : motion = true ↔ k.kindSent = some .motionReport
  capture : capture = true ↔ k.kindSent = some .captureReport
  status : k.status.isSome = true ↔ k.kindSent = some .linkStatusData

/-- Every link is sound. -/
def linksSound (s : State) : Prop :=
  ∀ l : LinkId, linkSound s.links[l] s.views[l].report.isSome s.rings[l].report.isSome

theorem linksConsistent_iff {s : State} :
    linksConsistent s ↔
      queuesBounded s ∧ (s.phase ≠ .running → ∀ l : LinkId, s.links[l].owner = .client) ∧ linksSound s := by
  constructor
  · rintro ⟨hq, hp, hl⟩
    exact ⟨hq, hp, fun l => by obtain ⟨h1, h2, h3, h4, h5, h6⟩ := hl l; exact ⟨h1, h2, h3, h4, h5, h6⟩⟩
  · rintro ⟨hq, hp, hl⟩
    exact ⟨hq, hp, fun l => by obtain ⟨h1, h2, h3, h4, h5, h6⟩ := hl l; exact ⟨h1, h2, h3, h4, h5, h6⟩⟩

theorem kindSent_idle {k : Link} (h : k.tx = .idle) : k.kindSent = none := by unfold Link.kindSent; rw [h]

theorem kindSent_guard {k : Link} (h : k.tx = .guard) : k.kindSent = none := by unfold Link.kindSent; rw [h]

theorem kindSent_sending {k : Link} {f : TxFrame} (h : k.tx = .sending f) : k.kindSent = some f.kind := by
  unfold Link.kindSent; rw [h]

theorem owner_ne_client {o : Owner} (h : o ≠ .client) : o = .am48 := by
  cases o with
  | client => exact absurd rfl h
  | am48 => rfl

theorem owner_of_tx {k : Link} {motion capture : Bool} (h : linkSound k motion capture) (ht : k.tx ≠ .idle) :
    k.owner = .am48 := owner_ne_client fun ho => ht (h.owner.1 ho)

/-- A link whose transmitter is not sending has no report and no status in flight. -/
theorem quiet_of_kindSent {k : Link} {motion capture : Bool} (h : linkSound k motion capture)
    (hk : k.kindSent = none) : motion = false ∧ capture = false ∧ k.status = none := by
  obtain ⟨-, -, -, hm, hc, hs⟩ := h
  rw [hk] at hm hc hs
  cases motion <;> cases capture <;> cases hst : k.status <;> simp_all

/-- A link with nothing in flight, its transmitter IDLE and the client the owner. -/
theorem linkSound_of_client {k : Link} (ho : k.owner = .client) (ht : k.tx = .idle) (hs : k.status = none) :
    linkSound k false false := by
  refine ⟨⟨fun _ => ht, fun _ => ho⟩, fun h => (by rw [ho] at h; cases h), fun f hf => (by rw [ht] at hf; cases hf),
    ?_, ?_, ?_⟩
  all_goals rw [kindSent_idle ht]
  · exact ⟨fun h => (by cases h), fun h => (by cases h)⟩
  · exact ⟨fun h => (by cases h), fun h => (by cases h)⟩
  · rw [hs]; exact ⟨fun h => (by cases h), fun h => (by cases h)⟩

theorem linkSound_of_guard {k : Link} (ho : k.owner = .am48) (ht : k.tx = .guard) (hr : k.receiver = .idle)
    (hs : k.status = none) : linkSound k false false := by
  refine ⟨⟨fun h => (by rw [ho] at h; cases h), fun h => (by rw [ht] at h; cases h)⟩, fun _ => hr,
    fun f hf => (by rw [ht] at hf; cases hf), ?_, ?_, ?_⟩
  all_goals rw [kindSent_guard ht]
  · exact ⟨fun h => (by cases h), fun h => (by cases h)⟩
  · exact ⟨fun h => (by cases h), fun h => (by cases h)⟩
  · rw [hs]; exact ⟨fun h => (by cases h), fun h => (by cases h)⟩

/-- R146: what a link hears while its client owns the line leaves it sound. -/
theorem linkSound_of_hears {k k' : Link} {motion capture : Bool} (h : linkSound k motion capture)
    (hk : k.hears k') (ho : k.owner = .client) : linkSound k' motion capture := by
  have ht : k.tx = .idle := h.owner.1 ho
  obtain ⟨rfl, rfl, hs⟩ := quiet_of_kindSent h (kindSent_idle ht)
  obtain ⟨hst, -, ⟨ho', ht'⟩ | ⟨ho', ht', hr'⟩⟩ := hk
  · exact linkSound_of_client (ho'.trans ho) (ht'.trans ht) (hst.trans hs)
  · exact linkSound_of_guard ho' ht' hr' (hst.trans hs)

/-- R148, R151: what the AM48 reads in a character time of its own ownership leaves its link sound. -/
theorem linkSound_sendsOn {k : Link} {motion capture : Bool} (h : linkSound k motion capture) :
    linkSound k.sendsOn motion capture := by
  unfold Link.sendsOn
  split
  · next f hf =>
    obtain ⟨hown, hrec, hleft, hm, hc, hs⟩ := h
    rw [kindSent_sending hf] at hm hc hs
    refine ⟨⟨fun ho => ?_, fun ht => (by cases ht)⟩, hrec, fun g hg => ?_, hm, hc, hs⟩
    · have ht := hown.1 ho
      rw [hf] at ht
      cases ht
    · cases hg
      exact (List.tail_suffix _).trans (hleft f hf)
  · exact h
  · exact h

theorem linkSound_record {k : Link} {x : LinkCondition} {motion capture : Bool} (h : linkSound k motion capture) :
    linkSound (k.record x) motion capture := ⟨h.owner, h.receiver, h.left, h.motion, h.capture, h.status⟩

theorem linkSound_readBack {line : Samples 10} {k : Link} {motion capture : Bool}
    (h : linkSound k motion capture) : linkSound (k.readBack line) motion capture := by
  obtain e | e | e := readBack_cases line k <;> rw [e]
  · exact h
  · exact linkSound_sendsOn h
  · exact linkSound_sendsOn (linkSound_record h)

theorem sendsOn_queue (k : Link) : k.sendsOn.queue = k.queue := by
  unfold Link.sendsOn; split <;> rfl

theorem readBack_queue (line : Samples 10) (k : Link) : (k.readBack line).queue = k.queue := by
  obtain e | e | e := readBack_cases line k <;> rw [e]
  · exact sendsOn_queue k
  · exact sendsOn_queue _

end Sys2Proof.Machine

/-! PROOFS. O53, continued: which events keep the reports in flight, and the turn of a link. -/

namespace Sys2Proof.Machine

/-! ## Events that keep the report of every ring -/

/-- R106: what each ring has reported. -/
def ringReports (s : State) (v : LinkId) : Option CaptureReported := s.rings[v].report

theorem ringReports_congr {s t : State} (h : t.rings = s.rings) : ringReports t = ringReports s := by
  unfold ringReports; rw [h]

@[simp] theorem attendAll_ringReports (s : State) : ringReports (attendAll s) = ringReports s := rfl

theorem ringAfter_report (s : State) (v : LinkId) (r : CaptureRecord) :
    (ringAfter s v r).report = s.rings[v].report := by
  unfold ringAfter
  split
  · split <;> rfl
  · rfl

@[simp] theorem appendTo_ringReports (r : CaptureRecord) (s : State) (v : LinkId) :
    ringReports (appendTo r s v) = ringReports s := by
  funext u
  unfold ringReports
  rw [appendTo_rings]
  split
  · next hu => rw [ringAfter_report, hu]
  · rfl

@[simp] theorem appendRecord_ringReports (r : CaptureRecord) (s : State) :
    ringReports (appendRecord r s) = ringReports s := foldl_keeps ringReports _ (appendTo_ringReports r) _ s

@[simp] theorem finishCapture_ringReports (s : State) (t : TriggerId) :
    ringReports (finishCapture s t) = ringReports s := by
  unfold finishCapture
  split
  · rfl
  · rw [appendRecord_ringReports]; rfl

@[simp] theorem finishCaptures_ringReports (s : State) : ringReports (finishCaptures s) = ringReports s :=
  foldl_keeps ringReports _ finishCapture_ringReports _ s

@[simp] theorem confirmEvent_ringReports (t : TriggerId) (s : State) : ringReports (confirmEvent t s) = ringReports s := by
  unfold confirmEvent
  dsimp only
  split
  · split
    · rw [attendAll_ringReports]
      unfold qualifiedEdge
      split
      · rw [openCapture, finishCapture_ringReports]; exact ringReports_congr (by simp)
      · exact ringReports_congr rfl
    · exact ringReports_congr rfl
  · rfl

theorem settleTick_ringReports (s : State) : ringReports (settleTick s) = ringReports s := by
  unfold settleTick
  calc ringReports (allLinks.foldl (fun s v => pulseTickEvent v s) (allTriggers.foldl (fun s t => confirmEvent t s)
        (leaseExpiryEvent (allChannels.foldl (fun s c => dueExpiryEvent c s) s))))
      = ringReports (allTriggers.foldl (fun s t => confirmEvent t s)
        (leaseExpiryEvent (allChannels.foldl (fun s c => dueExpiryEvent c s) s))) :=
          foldl_keeps ringReports _ (fun s v => ringReports_congr (by simp)) _ _
    _ = ringReports (leaseExpiryEvent (allChannels.foldl (fun s c => dueExpiryEvent c s) s)) :=
          foldl_keeps ringReports _ (fun s t => confirmEvent_ringReports t s) _ _
    _ = ringReports s := ringReports_congr (by simp)

theorem advance_ringReports (trg : BitVec 4) (s : State) : ringReports (advance trg s) = ringReports s := rfl

@[simp] theorem tickEvent_ringReports (trg : BitVec 4) (s : State) : ringReports (tickEvent trg s) = ringReports s :=
  (advance_ringReports trg (settleTick s)).trans (settleTick_ringReports s)

@[simp] theorem applyCompletion_ringReports (e : Exchange) (o : ExchangeOutcome) (s : State) :
    ringReports (applyCompletion e o s) = ringReports s := by
  unfold applyCompletion
  split
  · exact ringReports_congr (by simp)
  · unfold applyOutcome
    split
    case h_5 => rw [motionSuccess, finishCaptures_ringReports]; exact ringReports_congr (by simp)
    case h_6 => rw [motionFailure, finishCaptures_ringReports]; exact ringReports_congr (by simp)
    all_goals exact ringReports_congr (by simp)

@[simp] theorem exchangeEvent_ringReports (sdi : List (Samples 8)) (s : State) :
    ringReports (exchangeEvent sdi s) = ringReports s := by
  unfold exchangeEvent
  split
  · rfl
  · split
    · rfl
    · exact (ringReports_congr (attendAll_frame _).2.2.2.2.2.2.2.2.2.2.1).trans (applyCompletion_ringReports _ _ _)

@[simp] theorem emptyRing_ringReports (v : LinkId) (s : State) : ringReports (emptyRing v s) = ringReports s :=
  funext fun u => get_upd_keeps Ring.report (v := s.rings) (i := v)
    (f := fun g => { g with head := 0, count := 0, dropped := 0 }) rfl u

@[simp] theorem applyPlacement_ringReports (l : LinkId) (run : List Setting) (s : State) :
    ringReports (applyPlacement l run s) = ringReports s := by
  unfold applyPlacement
  split
  · exact emptyRing_ringReports l s
  · rfl

@[simp] theorem applyEnable_ringReports (old new : Settings) (s : State) (c : ChannelId) :
    ringReports (applyEnable old new s c) = ringReports s := by
  unfold applyEnable
  split
  · exact ringReports_congr (by simp)
  · rw [disableChannel, finishCaptures_ringReports]; exact ringReports_congr (by simp)
  · rfl
  · rfl

@[simp] theorem applyWrite_ringReports (l : LinkId) (w : AcceptedWrite) (s : State) :
    ringReports (applyWrite l w s) = ringReports s := by
  unfold applyWrite
  dsimp only
  rw [attendAll_ringReports, ringReports_congr (applyAttentionMode_frame _ _ _).2.2.2.2.2.2.2.2.2.2.1,
    ringReports_congr (applyTriggerEnables_frame _ _ _ _).2.2.2.2.2.2.2.2.2.2.1,
    ringReports_congr (applyForcedTiers_frame _ _ _ _ _).2.2.2.2.2.2.2.2.2.2.1,
    foldl_keeps ringReports _ (applyEnable_ringReports _ _)]
  exact (ringReports_congr (by simp)).trans (applyPlacement_ringReports l w.run s)

/-! ## Events that keep the report of every view -/

/-- R56: whether each view has a report in flight. -/
def viewReports (s : State) (v : LinkId) : Bool := s.views[v].report.isSome

theorem viewReports_congr {s t : State} (h : t.views = s.views) : viewReports t = viewReports s := by
  unfold viewReports; rw [h]

theorem accumulate_report_isSome (c : ChannelId) (x y : BitVec 12) (q : Byte) (v : View) :
    (v.accumulate c x y q).report.isSome = v.report.isSome := by
  unfold View.accumulate
  split
  · rfl
  · exact Option.isSome_map

/-- Whether view `i` has a report in flight is as `x` says. -/
def viewReportIs (x : LinkId → Bool) (i : LinkId) (v : View) : Prop := v.report.isSome = x i

theorem partEventsKeep_report (x : LinkId → Bool) : PartEventsKeep (viewReportIs x) where
  notice _ _ _ _ h := h
  accumulate _ c a b q v h := (accumulate_report_isSome c a b q v).trans h
  countGap _ c v h := (congrArg _ (countGap_report c v)).trans h

theorem viewReports_of {s t : State}
    (h : ∀ {P : LinkId → View → Prop}, PartEventsKeep P → everyView P s → everyView P t) :
    viewReports t = viewReports s :=
  funext fun v => h (partEventsKeep_report (viewReports s)) (fun _ => rfl) v

@[simp] theorem tickEvent_viewReports (trg : BitVec 4) (s : State) : viewReports (tickEvent trg s) = viewReports s :=
  viewReports_of fun hP => everyView_tickEvent hP

@[simp] theorem leaseExpiryEvent_viewReports (s : State) : viewReports (leaseExpiryEvent s) = viewReports s :=
  viewReports_of fun hP => everyView_leaseExpiryEvent hP

@[simp] theorem exchangeEvent_viewReports (sdi : List (Samples 8)) (s : State) :
    viewReports (exchangeEvent sdi s) = viewReports s := viewReports_of fun hP => everyView_exchangeEvent hP

@[simp] theorem loseLease_viewReports (s : State) : viewReports (loseLease s) = viewReports s :=
  viewReports_of fun hP => everyView_loseLease hP

theorem modView_viewReports {l : LinkId} {f : View → View} {s : State} (hf : ∀ v, (f v).report = v.report) :
    viewReports (s.modView l f) = viewReports s :=
  funext fun v => get_upd_keeps (fun v : View => v.report.isSome) (congrArg _ (hf _)) v

@[simp] theorem applyWrite_viewReports (l : LinkId) (w : AcceptedWrite) (s : State) :
    viewReports (applyWrite l w s) = viewReports s :=
  (viewReports_congr (s := s.modView l (View.apply w.left.own)) (applyWrite_views l w s)).trans
    (modView_viewReports fun _ => rfl)

@[simp] theorem runViewReset_viewReports (l : LinkId) (s : State) : viewReports (runViewReset l s) = viewReports s :=
  (viewReports_congr (s := s.modView l View.clear) (by simp [runViewReset])).trans (modView_viewReports fun _ => rfl)

/-! ## The links of a state -/

theorem linksSound_congr {s t : State} (hl : t.links = s.links) (hv : viewReports t = viewReports s)
    (hr : ringReports t = ringReports s) (h : linksSound s) : linksSound t := by
  intro l
  have hvl : t.views[l].report.isSome = s.views[l].report.isSome := congrFun hv l
  have hrl : t.rings[l].report = s.rings[l].report := congrFun hr l
  rw [hl, hvl, hrl]
  exact h l

theorem linksConsistent_congr {s t : State} (hp : t.phase = s.phase) (hl : t.links = s.links)
    (hv : viewReports t = viewReports s) (hr : ringReports t = ringReports s) (h : linksConsistent s) :
    linksConsistent t := by
  obtain ⟨hq, hcl, hs⟩ := linksConsistent_iff.1 h
  refine linksConsistent_iff.2 ⟨?_, ?_, linksSound_congr hl hv hr hs⟩
  · unfold queuesBounded; rw [hl]; exact hq
  · rw [hp, hl]; exact hcl

/-- A change of one working link that keeps it sound and its queue bounded. -/
theorem modLink_linksConsistent {s : State} {l : LinkId} {f : Link → Link} (hr : s.phase = .running)
    (hq : s.links[l].queue.length ≤ Config.queueMax → (f s.links[l]).queue.length ≤ Config.queueMax)
    (hf : linkSound s.links[l] s.views[l].report.isSome s.rings[l].report.isSome →
      linkSound (f s.links[l]) s.views[l].report.isSome s.rings[l].report.isSome) (h : linksConsistent s) :
    linksConsistent (s.modLink l f) := by
  obtain ⟨hb, -, hs⟩ := linksConsistent_iff.1 h
  refine linksConsistent_iff.2 ⟨fun k => ?_, fun hn => absurd hr hn, fun k => ?_⟩
  · rw [State.modLink_links]
    by_cases hk : k = l
    · subst hk; rw [get_upd_eq]; exact hq (hb k)
    · rw [get_upd_ne hk]; exact hb k
  · rw [State.modLink_links]
    by_cases hk : k = l
    · subst hk; rw [get_upd_eq]; exact hf (hs k)
    · rw [get_upd_ne hk]; exact hs k

theorem hears_linksConsistent {s : State} {l : LinkId} {f : Link → Link} (ho : operating s l = true)
    (hc : s.links[l].owner = .client) (hf : s.links[l].hears (f s.links[l])) (h : linksConsistent s) :
    linksConsistent (s.modLink l f) :=
  modLink_linksConsistent (running_of_operating ho) hf.2.1 (fun hl => linkSound_of_hears hl hf hc) h

/-- The timeout, the end of DISCARD and the return to mark, for which the client must own the line to find anything. -/
theorem quiet_linksConsistent {s : State} {l : LinkId} {f : Link → Link} (ho : operating s l = true)
    (hf : s.links[l].hears (f s.links[l])) (hi : s.links[l].receiver = .idle → f s.links[l] = s.links[l])
    (h : linksConsistent s) : linksConsistent (s.modLink l f) := by
  cases hown : s.links[l].owner with
  | client => exact hears_linksConsistent ho hown hf h
  | am48 =>
    have hsame := hi (((linksConsistent_iff.1 h).2.2 l).receiver hown)
    exact linksConsistent_congr (s := s) rfl (upd_eq_self _ _ _ hsame) rfl rfl h

theorem renewLease_linksConsistent {l : LinkId} {s : State} (h : linksConsistent s) :
    linksConsistent (renewLease l s) :=
  linksConsistent_congr (by simp) (by simp) (viewReports_congr (by simp)) (ringReports_congr (by simp)) h

section
variable {l : LinkId} {s : State}

theorem headerEvent_linksConsistent {x y z check : Byte} (ho : operating s l = true)
    (hc : s.links[l].owner = .client) (h : linksConsistent s) : linksConsistent (headerEvent l x y z check s) := by
  have h1 : linksConsistent (s.modLink l fun k => k.headerArrived x y z check) :=
    hears_linksConsistent ho hc (Link.headerArrived_hears _ _ _ _ _) h
  unfold headerEvent
  dsimp only
  split
  · exact renewLease_linksConsistent h1
  · exact h1

theorem receiveByte_linksConsistent {b : Byte} (ho : operating s l = true) (hc : s.links[l].owner = .client)
    (h : linksConsistent s) : linksConsistent (receiveByte l b s) := by
  have step : ∀ r : Receiver, linksConsistent (s.modLink l fun k => { k with receiver := r }) := fun r =>
    hears_linksConsistent ho hc (Link.hears_of_eq rfl rfl rfl rfl) h
  unfold receiveByte
  split
  · exact step _
  · split
    · exact headerEvent_linksConsistent ho hc h
    · exact step _
  · exact step _
  · split
    · exact step _
    · exact hears_linksConsistent ho hc (Link.longArrived_hears _ _ _ _ _) h
  · exact h
  · exact h

theorem takeCharacter_linksConsistent {line : Samples 10} (ho : operating s l = true) (h : linksConsistent s) :
    linksConsistent (takeCharacter l line s) := by
  unfold takeCharacter
  split
  · next hc =>
    split
    · exact receiveByte_linksConsistent ho hc h
    · exact h
  · exact modLink_linksConsistent (running_of_operating ho) (fun hq => by rw [readBack_queue]; exact hq)
      linkSound_readBack h

theorem fourthByte_linksConsistent {b : Byte} (ho : operating s l = true) (h : linksConsistent s) :
    linksConsistent (fourthByte l b s) := by
  unfold fourthByte
  split
  · next hc _ => exact headerEvent_linksConsistent ho hc h
  · exact h

theorem lastCrcByte_linksConsistent {b : Byte} (ho : operating s l = true) (h : linksConsistent s) :
    linksConsistent (lastCrcByte l b s) := by
  unfold lastCrcByte
  split
  · next hc _ => exact hears_linksConsistent ho hc (Link.longArrived_hears _ _ _ _ _) h
  · exact h

theorem recordContention_linksConsistent (ho : operating s l = true) (h : linksConsistent s) :
    linksConsistent (recordContention l s) :=
  modLink_linksConsistent (running_of_operating ho) id linkSound_record h

theorem framingEvent_linksConsistent (ho : operating s l = true) (h : linksConsistent s) :
    linksConsistent (framingEvent l s) := by
  unfold framingEvent
  split
  · next hc => exact hears_linksConsistent ho hc (Link.framingError_hears _) h
  · exact recordContention_linksConsistent ho h

theorem contentionEvent_linksConsistent (ho : operating s l = true) (h : linksConsistent s) :
    linksConsistent (contentionEvent l s) := by
  unfold contentionEvent
  split
  · exact h
  · exact recordContention_linksConsistent ho h

end

/-! ## Strap sampling and reset -/

theorem firstLink_sound {st : Straps} {l : LinkId} {mark : Bool} {k : Link} {motion capture : Bool}
    (hc : k.owner = .client) (h : linkSound k motion capture) : linkSound (firstLink st l mark k) motion capture := by
  unfold firstLink
  split
  · exact h
  · exact linkSound_of_hears h (Link.hears_of_eq rfl rfl rfl rfl) hc

theorem firstLink_queue (st : Straps) (l : LinkId) (mark : Bool) (k : Link) :
    (firstLink st l mark k).queue = k.queue := by
  unfold firstLink; split <;> rfl

theorem sampleStraps_links (st : Straps) (ld : BitVec 4) (s : State) (l : LinkId) :
    (sampleStraps st ld s).links[l] = firstLink st l (ld.getLsbD l.val) s.links[l] := by simp [sampleStraps]

theorem sampleStraps_linksConsistent {st : Straps} {ld : BitVec 4} {s : State} (hp : s.phase ≠ .running)
    (h : linksConsistent s) : linksConsistent (sampleStraps st ld s) := by
  obtain ⟨hb, hcl, hs⟩ := linksConsistent_iff.1 h
  refine linksConsistent_iff.2 ⟨fun l => ?_, fun hn => absurd rfl hn, fun l => ?_⟩
  · rw [sampleStraps_links, firstLink_queue]; exact hb l
  · rw [sampleStraps_links]
    have hv : (sampleStraps st ld s).views[l].report = s.views[l].report := by simp [sampleStraps, firstView]
    rw [hv]
    exact firstLink_sound (hcl hp l) (hs l)

theorem linksConsistent_reset (q : List Instr) : linksConsistent { State.reset with pending := q } := by
  have hl : ∀ l : LinkId, ({ State.reset with pending := q } : State).links[l] = Link.reset :=
    fun l => get_replicate _ l
  refine linksConsistent_iff.2 ⟨fun l => ?_, fun _ l => ?_, fun l => ?_⟩
  · rw [hl]; exact Nat.zero_le _
  · rw [hl]; rfl
  · rw [hl, show ({ State.reset with pending := q } : State).views[l] = View.reset from get_replicate _ l,
      show ({ State.reset with pending := q } : State).rings[l] = Ring.reset from get_replicate _ l]
    exact linkSound_of_client rfl rfl rfl

end Sys2Proof.Machine

/-! PROOFS. O53, concluded: the turn of a link, its breaks, and every step. -/

namespace Sys2Proof.Machine

/-! ## Between two frames of a turn -/

/-- The AM48 owns link `l` and is about to send a frame, and every other link is sound. -/
structure turnAt (l : LinkId) (s : State) : Prop where
  running : s.phase = .running
  bounded : queuesBounded s
  others : ∀ k : LinkId, k ≠ l → linkSound s.links[k] s.views[k].report.isSome s.rings[k].report.isSome
  owner : s.links[l].owner = .am48
  receiver : s.links[l].receiver = .idle

/-- No report and no status is in flight on link `l`. -/
structure nothingInFlight (l : LinkId) (s : State) : Prop where
  motion : s.views[l].report = none
  capture : s.rings[l].report = none
  status : s.links[l].status = none

/-- R146, R148: what holds between the delivery of one frame of a turn and the composition of the next. -/
def betweenFrames (l : LinkId) (s : State) : Prop := turnAt l s ∧ nothingInFlight l s

theorem turnAt_congr {l : LinkId} {s t : State} (hp : t.phase = s.phase) (hl : t.links = s.links)
    (hv : ∀ k : LinkId, k ≠ l → viewReports t k = viewReports s k)
    (hr : ∀ k : LinkId, k ≠ l → ringReports t k = ringReports s k) (h : turnAt l s) : turnAt l t := by
  obtain ⟨hrun, hb, hoth, hown, hrec⟩ := h
  refine ⟨hp.trans hrun, by unfold queuesBounded; rw [hl]; exact hb, fun k hk => ?_, by rw [hl]; exact hown,
    by rw [hl]; exact hrec⟩
  have hvk : t.views[k].report.isSome = s.views[k].report.isSome := hv k hk
  have hrk : t.rings[k].report = s.rings[k].report := hr k hk
  rw [hl, hvk, hrk]
  exact hoth k hk

/-- A change of link `l` that keeps its owner and receiver and makes its queue no longer. -/
theorem turnAt_modLink {l : LinkId} {f : Link → Link} {s : State} (ho : ∀ k, (f k).owner = k.owner)
    (hr : ∀ k, (f k).receiver = k.receiver) (hq : (f s.links[l]).queue.length ≤ Config.queueMax) (h : turnAt l s) :
    turnAt l (s.modLink l f) := by
  obtain ⟨hrun, hb, hoth, hown, hrec⟩ := h
  refine ⟨hrun, fun k => ?_, fun k hk => ?_, ?_, ?_⟩
  · rw [State.modLink_links]
    by_cases hk : k = l
    · subst hk; rw [get_upd_eq]; exact hq
    · rw [get_upd_ne hk]; exact hb k
  · rw [State.modLink_links, get_upd_ne hk]; exact hoth k hk
  · rw [State.modLink_links, get_upd_eq, ho]; exact hown
  · rw [State.modLink_links, get_upd_eq, hr]; exact hrec

/-- R147: a frame composed is sent; it carries a report or a status exactly if one is now in flight. -/
theorem send_linksConsistent {l : LinkId} {f : TxFrame} {s : State} (h : turnAt l s) (hleft : f.left <:+ f.bytes)
    (hm : s.views[l].report.isSome = true ↔ f.kind = .motionReport)
    (hc : s.rings[l].report.isSome = true ↔ f.kind = .captureReport)
    (hs : s.links[l].status.isSome = true ↔ f.kind = .linkStatusData) : linksConsistent (send l f s) := by
  obtain ⟨hrun, hb, hoth, hown, hrec⟩ := h
  refine linksConsistent_iff.2 ⟨fun k => ?_, fun hn => absurd hrun hn, fun k => ?_⟩
  · rw [send_links]
    exact (congrArg List.length (get_upd_keeps (v := s.links) Link.queue rfl k)).trans_le (hb k)
  · rw [send_links]
    by_cases hk : k = l
    · subst hk
      rw [get_upd_eq]
      refine ⟨⟨fun h => ?_, fun h => (by cases h)⟩, fun _ => hrec, fun g hg => ?_, ?_, ?_, ?_⟩
      · rw [show ({ s.links[k] with tx := .sending f } : Link).owner = s.links[k].owner from rfl, hown] at h
        cases h
      · cases hg; exact hleft
      · exact hm.trans (Option.some_inj (a := f.kind)).symm
      · exact hc.trans (Option.some_inj (a := f.kind)).symm
      · exact hs.trans (Option.some_inj (a := f.kind)).symm
    · rw [get_upd_ne hk]; exact hoth k hk

/-- A frame that carries no report and no status, sent with nothing in flight. -/
theorem send_plain_linksConsistent {l : LinkId} {f : TxFrame} {s : State} (h : betweenFrames l s)
    (hleft : f.left <:+ f.bytes) (hm : f.kind ≠ .motionReport) (hc : f.kind ≠ .captureReport)
    (hs : f.kind ≠ .linkStatusData) : linksConsistent (send l f s) := by
  obtain ⟨hturn, hmotion, hcapture, hstatus⟩ := h
  refine send_linksConsistent hturn hleft ?_ ?_ ?_
  · rw [hmotion]; exact ⟨fun e => (by cases e), fun e => absurd e hm⟩
  · rw [hcapture]; exact ⟨fun e => (by cases e), fun e => absurd e hc⟩
  · rw [hstatus]; exact ⟨fun e => (by cases e), fun e => absurd e hs⟩

theorem sendResult_linksConsistent {l : LinkId} {r : Request} {code : ResultCode} {s : State}
    (h : betweenFrames l s) : linksConsistent (sendResult l r code s) :=
  send_plain_linksConsistent h (List.suffix_refl _) ReplyKind.noConfusion ReplyKind.noConfusion
    ReplyKind.noConfusion

theorem betweenFrames_congr {l : LinkId} {s t : State} (hp : t.phase = s.phase) (hl : t.links = s.links)
    (hv : viewReports t = viewReports s) (hr : ringReports t = ringReports s) (h : betweenFrames l s) :
    betweenFrames l t := by
  obtain ⟨hturn, hmotion, hcapture, hstatus⟩ := h
  refine ⟨turnAt_congr hp hl (fun _ _ => congrFun hv _) (fun _ _ => congrFun hr _) hturn, ?_,
    (congrFun hr l).trans hcapture, by rw [hl]; exact hstatus⟩
  have hvl : t.views[l].report.isSome = s.views[l].report.isSome := congrFun hv l
  rw [hmotion] at hvl
  exact Option.isNone_iff_eq_none.1 (by simpa using hvl)

theorem betweenFrames_popped {l : LinkId} {r : Request} {rest : List Request} {s : State}
    (hq : s.links[l].queue = r :: rest) (h : betweenFrames l s) : betweenFrames l (popped l rest s) := by
  obtain ⟨hturn, hmotion, hcapture, hstatus⟩ := h
  refine ⟨turnAt_modLink (fun _ => rfl) (fun _ => rfl) ?_ hturn, hmotion, hcapture, ?_⟩
  · have hb := hturn.bounded l
    rw [hq, List.length_cons] at hb
    exact (Nat.le_succ _).trans hb
  · exact (congrArg Link.status get_upd_eq).trans hstatus

/-! ## The execution of a request -/

section
variable {l : LinkId} {s : State}

theorem runMotionRead_linksConsistent {mask options : Byte} (h : betweenFrames l s) :
    linksConsistent (runMotionRead l mask options s) := by
  unfold runMotionRead
  split
  · obtain ⟨hturn, -, hcapture, hstatus⟩ := h
    refine send_linksConsistent (turnAt_congr (s := s) rfl rfl (fun k hk => ?_) (fun _ _ => rfl) hturn)
      (List.suffix_refl _) ⟨fun _ => rfl, fun _ => ?_⟩ ?_ ?_
    · exact congrArg (fun v : View => v.report.isSome) (get_upd_ne hk)
    · exact congrArg (fun v : View => v.report.isSome) get_upd_eq
    · rw [State.modView_rings, hcapture]; exact ⟨fun e => (by cases e), fun e => (by cases e)⟩
    · rw [State.modView_links, hstatus]; exact ⟨fun e => (by cases e), fun e => (by cases e)⟩
  · exact sendResult_linksConsistent h

theorem runCaptureRead_linksConsistent {n : Byte} (h : betweenFrames l s) :
    linksConsistent (runCaptureRead l n s) := by
  unfold runCaptureRead
  split
  · exact sendResult_linksConsistent h
  · obtain ⟨hturn, hmotion, -, hstatus⟩ := h
    refine send_linksConsistent (turnAt_congr (s := s) rfl rfl (fun _ _ => rfl) (fun k hk => ?_) hturn)
      (List.suffix_refl _) ?_ ⟨fun _ => rfl, fun _ => ?_⟩ ?_
    · exact congrArg Ring.report (get_upd_ne hk)
    · rw [State.modRing_views, hmotion]; exact ⟨fun e => (by cases e), fun e => (by cases e)⟩
    · exact congrArg (fun g : Ring => g.report.isSome) get_upd_eq
    · rw [State.modRing_links, hstatus]; exact ⟨fun e => (by cases e), fun e => (by cases e)⟩

theorem runLinkStatus_linksConsistent (h : betweenFrames l s) : linksConsistent (runLinkStatus l s) := by
  obtain ⟨hturn, hmotion, hcapture, -⟩ := h
  refine send_linksConsistent
    (turnAt_modLink (f := fun k => { k with status := some (statusNow s l) }) (fun _ => rfl) (fun _ => rfl)
      (hturn.bounded l) hturn) (List.suffix_refl _) ?_ ?_ ⟨fun _ => rfl, fun _ => ?_⟩
  · rw [State.modLink_views, hmotion]; exact ⟨fun e => (by cases e), fun e => (by cases e)⟩
  · rw [State.modLink_rings, hcapture]; exact ⟨fun e => (by cases e), fun e => (by cases e)⟩
  · exact congrArg (fun k : Link => k.status.isSome) get_upd_eq

theorem runRequest_linksConsistent {r : Request} (h : betweenFrames l s) : linksConsistent (runRequest l r s) := by
  cases r with
  | motionRead mask options => exact runMotionRead_linksConsistent h
  | captureRead n => exact runCaptureRead_linksConsistent h
  | linkStatus => exact runLinkStatus_linksConsistent h
  | viewReset =>
    refine sendResult_linksConsistent (betweenFrames_congr (by simp) (by simp) ?_ ?_ h)
    · exact (viewReports_congr (s := s.modView l View.clear) (by simp)).trans (modView_viewReports fun _ => rfl)
    · rw [attendAll_ringReports, emptyRing_ringReports]; rfl
  | leaseAcquire =>
    show linksConsistent (runLeaseAcquire l s)
    unfold runLeaseAcquire
    split
    · exact sendResult_linksConsistent (betweenFrames_congr (s := s) rfl rfl rfl rfl h)
    · split <;> exact sendResult_linksConsistent h
  | leaseRelease =>
    show linksConsistent (runLeaseRelease l s)
    unfold runLeaseRelease
    split
    · exact sendResult_linksConsistent (betweenFrames_congr (s := s) rfl rfl rfl rfl h)
    · exact sendResult_linksConsistent h
  | settingRead payload =>
    show linksConsistent (runSettingRead l payload s)
    unfold runSettingRead
    split
    · exact sendResult_linksConsistent h
    · exact send_plain_linksConsistent h (List.suffix_refl _) ReplyKind.noConfusion ReplyKind.noConfusion
        ReplyKind.noConfusion
  | settingWrite payload =>
    show linksConsistent (runSettingWrite l payload s)
    unfold runSettingWrite
    split
    · exact sendResult_linksConsistent h
    · exact sendResult_linksConsistent (betweenFrames_congr (by simp) (by simp) (applyWrite_viewReports l _ s)
        (applyWrite_ringReports l _ s) h)
  | preset payload =>
    show linksConsistent (runPreset l payload s)
    unfold runPreset
    split
    · exact sendResult_linksConsistent h
    · exact sendResult_linksConsistent (betweenFrames_congr (s := s) rfl rfl rfl rfl h)

theorem execute_linksConsistent {r : Request} {rest : List Request} (hq : s.links[l].queue = r :: rest)
    (h : betweenFrames l s) : linksConsistent (execute l r rest s) :=
  renewLease_linksConsistent (runRequest_linksConsistent (betweenFrames_popped hq h))

theorem composeTurn_linksConsistent (h : betweenFrames l s) : linksConsistent (composeTurn l s) :=
  send_plain_linksConsistent h (List.suffix_refl _) ReplyKind.noConfusion ReplyKind.noConfusion
    ReplyKind.noConfusion

theorem composeClosing_linksConsistent (h : betweenFrames l s) : linksConsistent (composeClosing l s) := by
  unfold composeClosing
  split
  · exact composeTurn_linksConsistent h
  · obtain ⟨hturn, hmotion, hcapture, hstatus⟩ := h
    refine send_plain_linksConsistent ⟨turnAt_modLink (fun _ => rfl) (fun _ => rfl) (hturn.bounded l) hturn, hmotion,
      hcapture, (congrArg Link.status get_upd_eq).trans hstatus⟩ (List.suffix_refl _) ReplyKind.noConfusion
      ReplyKind.noConfusion ReplyKind.noConfusion

/-- A link that comes back to its client with nothing in flight. -/
theorem client_linksConsistent {f : Link → Link} (hrun : s.phase = .running) (hb : queuesBounded s)
    (hoth : ∀ k : LinkId, k ≠ l → linkSound s.links[k] s.views[k].report.isSome s.rings[k].report.isSome)
    (hn : nothingInFlight l s) (hq : (f s.links[l]).queue.length ≤ Config.queueMax)
    (ho : (f s.links[l]).owner = .client) (ht : (f s.links[l]).tx = .idle)
    (hs : (f s.links[l]).status = s.links[l].status) : linksConsistent (s.modLink l f) := by
  refine linksConsistent_iff.2 ⟨fun k => ?_, fun hp => absurd hrun hp, fun k => ?_⟩
  · rw [State.modLink_links]
    by_cases hk : k = l
    · subst hk; rw [get_upd_eq]; exact hq
    · rw [get_upd_ne hk]; exact hb k
  · rw [State.modLink_links]
    by_cases hk : k = l
    · subst hk
      rw [get_upd_eq, State.modLink_views, State.modLink_rings, hn.motion, hn.capture]
      exact linkSound_of_client ho ht (hs.trans hn.status)
    · rw [get_upd_ne hk]; exact hoth k hk

theorem endTurn_linksConsistent (h : betweenFrames l s) : linksConsistent (endTurn l s) :=
  client_linksConsistent h.1.running h.1.bounded h.1.others h.2 (h.1.bounded l) rfl rfl rfl

/-! ## Deliveries and aborts -/

theorem turnAt_of_consistent (hrun : s.phase = .running) (ht : s.links[l].tx ≠ .idle) (h : linksConsistent s) :
    turnAt l s := by
  obtain ⟨hb, -, hs⟩ := linksConsistent_iff.1 h
  have ho := owner_of_tx (hs l) ht
  exact ⟨hrun, hb, fun k _ => hs k, ho, (hs l).receiver ho⟩

/-- What the frame in transmission carries is all that is in flight. -/
theorem inFlight_of_sending {f : TxFrame} (hf : s.links[l].tx = .sending f) (h : linksConsistent s) :
    (f.kind ≠ .motionReport → s.views[l].report = none) ∧ (f.kind ≠ .captureReport → s.rings[l].report = none) ∧
      (f.kind ≠ .linkStatusData → s.links[l].status = none) := by
  obtain ⟨-, -, -, hm, hc, hs⟩ := (linksConsistent_iff.1 h).2.2 l
  rw [kindSent_sending hf] at hm hc hs
  refine ⟨fun hne => ?_, fun hne => ?_, fun hne => ?_⟩
  · cases hr : s.views[l].report with
    | none => rfl
    | some x => exact absurd (Option.some.inj (hm.1 (by rw [hr]; rfl))) hne
  · cases hr : s.rings[l].report with
    | none => rfl
    | some x => exact absurd (Option.some.inj (hc.1 (by rw [hr]; rfl))) hne
  · cases hr : s.links[l].status with
    | none => rfl
    | some x => exact absurd (Option.some.inj (hs.1 (by rw [hr]; rfl))) hne

theorem nothingInFlight_of_quiet (hk : s.links[l].kindSent = none) (h : linksConsistent s) : nothingInFlight l s := by
  obtain ⟨hm, hc, hs⟩ := quiet_of_kindSent ((linksConsistent_iff.1 h).2.2 l) hk
  exact ⟨Option.isNone_iff_eq_none.1 (by simpa using hm), Option.isNone_iff_eq_none.1 (by simpa using hc), hs⟩

/-- R80, R148: the delivery of a MOTION REPORT takes the record of view `l` away, and keeps every other report. -/
theorem deliverMotion_reports (l : LinkId) (s : State) :
    (deliverMotion l s).views[l].report = none ∧ ∀ k : LinkId, k ≠ l → viewReports (deliverMotion l s) k = viewReports s k := by
  unfold deliverMotion
  split
  · next hr => exact ⟨hr, fun _ _ => rfl⟩
  · exact ⟨congrArg View.report get_upd_eq,
      fun k hk => congrArg (fun v : View => v.report.isSome) (get_upd_ne hk)⟩

theorem removeHead_ringReports (v : LinkId) (n : Nat) (s : State) : ringReports (removeHead v n s) = ringReports s :=
  funext fun u => get_upd_keeps Ring.report (v := s.rings) (i := v) (f := fun g => { g with
    head := ringPosition s.rings[v].head n (ringSlots s.views[v].settings.ringLength), count := s.rings[v].count - n })
    rfl u

theorem deliverCapture_reports (l : LinkId) (s : State) :
    (deliverCapture l s).rings[l].report = none ∧
      ∀ k : LinkId, k ≠ l → ringReports (deliverCapture l s) k = ringReports s k := by
  unfold deliverCapture
  split
  · next hr => exact ⟨hr, fun _ _ => rfl⟩
  · refine ⟨congrArg Ring.report get_upd_eq, fun k hk => ?_⟩
    exact (congrArg Ring.report (get_upd_ne hk)).trans (congrFun (removeHead_ringReports l _ s) k)

theorem takeStatus_keeps (r : StatusReported) (k : Link) :
    (Link.takeStatus r k).owner = k.owner ∧ (Link.takeStatus r k).receiver = k.receiver ∧
      (Link.takeStatus r k).queue = k.queue ∧ (Link.takeStatus r k).status = none := ⟨rfl, rfl, rfl, rfl⟩

/-- R148: after the delivery of the frame in transmission nothing is in flight. -/
theorem deliverFrame_betweenFrames {f : TxFrame} (hrun : s.phase = .running) (hf : s.links[l].tx = .sending f)
    (h : linksConsistent s) : betweenFrames l (deliverFrame l f.kind s) := by
  have hturn : turnAt l s := turnAt_of_consistent hrun (by rw [hf]; exact Transmitter.noConfusion) h
  obtain ⟨hm, hc, hs⟩ := inFlight_of_sending hf h
  obtain ⟨kind, bytes, left⟩ := f
  cases kind with
  | motionReport =>
    obtain ⟨hnone, hother⟩ := deliverMotion_reports l s
    exact ⟨turnAt_congr (by simp [deliverFrame]) (by simp [deliverFrame]) hother
      (fun k _ => congrFun (ringReports_congr (by simp [deliverFrame])) k) hturn,
      hnone, by simpa [deliverFrame] using hc ReplyKind.noConfusion,
      by simpa [deliverFrame] using hs ReplyKind.noConfusion⟩
  | captureReport =>
    obtain ⟨hnone, hother⟩ := deliverCapture_reports l s
    exact ⟨turnAt_congr (by simp [deliverFrame]) (by simp [deliverFrame])
      (fun k _ => congrFun (viewReports_congr (by simp [deliverFrame])) k) hother hturn,
      by simpa [deliverFrame] using hm ReplyKind.noConfusion, hnone,
      by simpa [deliverFrame] using hs ReplyKind.noConfusion⟩
  | linkStatusData =>
    show betweenFrames l (deliverStatus l s)
    have hmotion := hm ReplyKind.noConfusion
    have hcapture := hc ReplyKind.noConfusion
    unfold deliverStatus
    split
    · next hst => exact ⟨hturn, hmotion, hcapture, hst⟩
    · next r hst =>
      have h1 : betweenFrames l (s.modLink l (Link.takeStatus r)) :=
        ⟨turnAt_modLink (fun k => (takeStatus_keeps r k).1) (fun k => (takeStatus_keeps r k).2.1)
          (hturn.bounded l) hturn, hmotion, hcapture, congrArg Link.status get_upd_eq⟩
      exact betweenFrames_congr (s := s.modLink l (Link.takeStatus r)) rfl rfl
        (modView_viewReports (s := s.modLink l (Link.takeStatus r)) fun _ => rfl) rfl h1
  | settingData => exact ⟨hturn, hm ReplyKind.noConfusion, hc ReplyKind.noConfusion, hs ReplyKind.noConfusion⟩
  | result => exact ⟨hturn, hm ReplyKind.noConfusion, hc ReplyKind.noConfusion, hs ReplyKind.noConfusion⟩
  | errorReport => exact ⟨hturn, hm ReplyKind.noConfusion, hc ReplyKind.noConfusion, hs ReplyKind.noConfusion⟩
  | turn => exact ⟨hturn, hm ReplyKind.noConfusion, hc ReplyKind.noConfusion, hs ReplyKind.noConfusion⟩

/-- The other links are sound, and nothing is in flight on link `l`. -/
def clearAt (l : LinkId) (s : State) : Prop :=
  queuesBounded s ∧
    (∀ k : LinkId, k ≠ l → linkSound s.links[k] s.views[k].report.isSome s.rings[k].report.isSome) ∧
    nothingInFlight l s

/-- R152: the abort of the frame in transmission leaves nothing in flight. -/
theorem abortTransmission_clearAt (h : linksConsistent s) : clearAt l (abortTransmission l s) := by
  obtain ⟨hb, -, hs⟩ := linksConsistent_iff.1 h
  have quiet : s.links[l].kindSent = none → clearAt l s := fun hk =>
    ⟨hb, fun k _ => hs k, nothingInFlight_of_quiet hk h⟩
  unfold abortTransmission
  split
  case h_2 ht => exact quiet (kindSent_idle ht)
  case h_3 ht => exact quiet (kindSent_guard ht)
  case h_1 f hf =>
    obtain ⟨hm, hc, hst⟩ := inFlight_of_sending hf h
    obtain ⟨kind, bytes, left⟩ := f
    cases kind with
    | motionReport =>
      refine ⟨hb, fun k hk => ?_, congrArg View.report get_upd_eq, hc ReplyKind.noConfusion,
        hst ReplyKind.noConfusion⟩
      have hv : (abortMotion l s).views[k] = s.views[k] := get_upd_ne hk
      show linkSound s.links[k] (abortMotion l s).views[k].report.isSome s.rings[k].report.isSome
      rw [hv]
      exact hs k
    | captureReport =>
      refine ⟨hb, fun k hk => ?_, hm ReplyKind.noConfusion, congrArg Ring.report get_upd_eq,
        hst ReplyKind.noConfusion⟩
      have hv : (abortCapture l s).rings[k] = s.rings[k] := get_upd_ne hk
      show linkSound s.links[k] s.views[k].report.isSome (abortCapture l s).rings[k].report.isSome
      rw [hv]
      exact hs k
    | linkStatusData =>
      refine ⟨fun k => ?_, fun k hk => ?_, ?_, hc ReplyKind.noConfusion, congrArg Link.status get_upd_eq⟩
      · exact (congrArg List.length (get_upd_keeps (v := s.links) Link.queue rfl k)).trans_le (hb k)
      · have hl : (abortStatus l s).links[k] = s.links[k] := get_upd_ne hk
        have hv : (abortStatus l s).views[k] = s.views[k] := get_upd_ne hk
        show linkSound (abortStatus l s).links[k] (abortStatus l s).views[k].report.isSome s.rings[k].report.isSome
        rw [hl, hv]
        exact hs k
      · exact (congrArg View.report get_upd_eq).trans (hm ReplyKind.noConfusion)
    | settingData => exact ⟨hb, fun k _ => hs k, hm ReplyKind.noConfusion, hc ReplyKind.noConfusion, hst ReplyKind.noConfusion⟩
    | result => exact ⟨hb, fun k _ => hs k, hm ReplyKind.noConfusion, hc ReplyKind.noConfusion, hst ReplyKind.noConfusion⟩
    | errorReport => exact ⟨hb, fun k _ => hs k, hm ReplyKind.noConfusion, hc ReplyKind.noConfusion, hst ReplyKind.noConfusion⟩
    | turn => exact ⟨hb, fun k _ => hs k, hm ReplyKind.noConfusion, hc ReplyKind.noConfusion, hst ReplyKind.noConfusion⟩

/-- R148: the delivery that a break falls together with leaves nothing in flight. -/
theorem deliveredOnly_clearAt {f : TxFrame} (hrun : s.phase = .running) (hf : s.links[l].tx = .sending f)
    (h : linksConsistent s) : clearAt l (deliveredOnly l s) := by
  obtain ⟨hturn, hm, hc, hs⟩ := deliverFrame_betweenFrames hrun hf h
  rw [deliveredOnly_sending hf]
  refine ⟨fun k => ?_, fun k hk => ?_, hm, hc, (congrArg Link.status get_upd_eq).trans hs⟩
  · exact (congrArg List.length (get_upd_keeps (v := (deliverFrame l f.kind s).links) Link.queue rfl k)).trans_le
      (hturn.bounded k)
  · rw [State.modLink_links, get_upd_ne hk]; exact hturn.others k hk

theorem breakTaken_linksConsistent (hrun : s.phase = .running) (h : clearAt l (abortTransmission l s)) :
    linksConsistent (breakTaken l s) := by
  have h1 : linksConsistent ((abortTransmission l s).modLink l Link.broken) :=
    client_linksConsistent (by simpa using hrun) h.1 h.2.1 h.2.2 (Nat.zero_le _) rfl rfl rfl
  unfold breakTaken
  refine linksConsistent_congr (attendAll_frame _).1 (by simp) (viewReports_congr (by simp)) (attendAll_ringReports _) ?_
  split
  · exact linksConsistent_congr (by simp) (by simp) (loseLease_viewReports _) (ringReports_congr (by simp)) h1
  · exact h1

/-- R152: a break leaves its link to the client, whichever of the break and the delivery comes first. -/
theorem breakEvent_linksConsistent {order : BreakOrder} (hrun : s.phase = .running) (h : linksConsistent s) :
    linksConsistent (breakEvent l order s) := by
  by_cases hr : s.links[l].receiver = .awaitMark true
  · unfold breakEvent; rw [hr]; exact h
  · rw [breakEvent_taken hr]
    refine breakTaken_linksConsistent (by simpa using hrun) ?_
    cases order with
    | alone => exact abortTransmission_clearAt h
    | afterDelivery =>
      show clearAt l (abortTransmission l (deliveredOnly l s))
      by_cases hf : ∃ f, s.links[l].tx = .sending f
      · obtain ⟨f, hf⟩ := hf
        rw [abortTransmission_quiet (deliveredOnly_tx l s)]
        exact deliveredOnly_clearAt hrun hf h
      · rw [deliveredOnly_quiet fun f e => hf ⟨f, e⟩]
        exact abortTransmission_clearAt h

end

/-! ## Every step -/

theorem turnKeeps_linksConsistent : TurnKeeps linksConsistent betweenFrames where
  guard _ _ ho ht h :=
    ⟨turnAt_of_consistent (running_of_operating ho) (by rw [ht]; exact Transmitter.noConfusion) h,
      nothingInFlight_of_quiet (kindSent_guard ht) h⟩
  deliver _ _ _ ho := deliverFrame_betweenFrames (running_of_operating ho)
  execute _ _ _ _ _ := execute_linksConsistent
  closing _ _ _ := composeClosing_linksConsistent
  turn _ _ _ := composeTurn_linksConsistent
  endTurn _ _ _ := endTurn_linksConsistent

theorem commandsKeep_linksConsistent : CommandsKeep linksConsistent betweenFrames where
  turns := turnKeeps_linksConsistent
  pending _ _ h := h
  reset := linksConsistent_reset
  release s hp h := linksConsistent_iff.2 ⟨h.1, fun _ => (linksConsistent_iff.1 h).2.1
    (by rw [hp]; exact Phase.noConfusion), (linksConsistent_iff.1 h).2.2⟩
  straps _ _ s hp h := sampleStraps_linksConsistent (s := { s with tickCount := s.tickCount + 1 })
    (show s.phase ≠ .running by rw [hp]; exact Phase.noConfusion) h
  tick _ _ _ := linksConsistent_congr (by simp) (by simp) (by simp) (by simp)
  due _ _ _ := linksConsistent_congr (by simp) (by simp) (viewReports_congr (by simp)) (ringReports_congr (by simp))
  lease _ _ := linksConsistent_congr (by simp) (by simp) (by simp) (ringReports_congr (by simp))
  pulse _ _ _ := linksConsistent_congr (by simp) (by simp) (viewReports_congr (by simp)) (ringReports_congr (by simp))
  confirm _ _ _ := linksConsistent_congr (by simp) (by simp) (viewReports_congr (by simp)) (by simp)
  grant _ _ := linksConsistent_congr (by simp) (by simp) (viewReports_congr (by simp)) (ringReports_congr (by simp))
  exchange _ _ _ := linksConsistent_congr (by simp) (by simp) (by simp) (by simp)
  character _ _ _ := takeCharacter_linksConsistent
  fourthByte _ _ _ := fourthByte_linksConsistent
  lastCrcByte _ _ _ := lastCrcByte_linksConsistent
  timeout _ _ ho := quiet_linksConsistent ho (Link.timeout_hears _) fun h => (Link.quiet_events_of_idle h).1
  framing _ _ := framingEvent_linksConsistent
  endDiscard _ _ ho := quiet_linksConsistent ho (Link.endDiscard_hears _) fun h => (Link.quiet_events_of_idle h).2.1
  contention _ _ := contentionEvent_linksConsistent
  lineBreak _ _ _ ho := breakEvent_linksConsistent (running_of_operating ho)
  returnToMark _ _ ho := quiet_linksConsistent ho (Link.markReturned_hears _) fun h => (Link.quiet_events_of_idle h).2.2

/-! ## The queues alone -/

theorem queuesBounded_congr {s t : State} (h : t.links = s.links) (hs : queuesBounded s) : queuesBounded t := by
  unfold queuesBounded; rw [h]; exact hs

theorem queuesBounded_modLink {s : State} {l : LinkId} {f : Link → Link}
    (hf : s.links[l].queue.length ≤ Config.queueMax → (f s.links[l]).queue.length ≤ Config.queueMax)
    (hs : queuesBounded s) : queuesBounded (s.modLink l f) := by
  intro k
  rw [State.modLink_links]
  by_cases hk : k = l
  · subst hk; rw [get_upd_eq]; exact hf (hs k)
  · rw [get_upd_ne hk]; exact hs k

section
variable {l : LinkId} {s : State}

theorem headerEvent_queuesBounded {x y z check : Byte} (h : queuesBounded s) :
    queuesBounded (headerEvent l x y z check s) := by
  have h1 : queuesBounded (s.modLink l fun k => k.headerArrived x y z check) :=
    queuesBounded_modLink (Link.headerArrived_hears _ _ _ _ _).2.1 h
  unfold headerEvent
  dsimp only
  split
  · exact queuesBounded_congr (by simp) h1
  · exact h1

theorem receiveByte_queuesBounded {b : Byte} (h : queuesBounded s) : queuesBounded (receiveByte l b s) := by
  unfold receiveByte
  split
  · exact queuesBounded_modLink id h
  · split
    · exact headerEvent_queuesBounded h
    · exact queuesBounded_modLink id h
  · exact queuesBounded_modLink id h
  · split
    · exact queuesBounded_modLink id h
    · exact queuesBounded_modLink (Link.longArrived_hears _ _ _ _ _).2.1 h
  · exact h
  · exact h

theorem takeCharacter_queuesBounded {line : Samples 10} (h : queuesBounded s) :
    queuesBounded (takeCharacter l line s) := by
  unfold takeCharacter
  split
  · split
    · exact receiveByte_queuesBounded h
    · exact h
  · exact queuesBounded_modLink (fun hq => by rw [readBack_queue]; exact hq) h

theorem deliverFrame_queuesBounded {kind : ReplyKind} (h : queuesBounded s) :
    queuesBounded (deliverFrame l kind s) := by
  cases kind with
  | linkStatusData =>
    show queuesBounded (deliverStatus l s)
    unfold deliverStatus
    split
    · exact h
    · next r _ => exact queuesBounded_modLink (f := Link.takeStatus r) id h
  | _ => exact queuesBounded_congr (by simp [deliverFrame]) h

theorem execute_queuesBounded {r : Request} {rest : List Request} (hq : s.links[l].queue = r :: rest)
    (h : queuesBounded s) : queuesBounded (execute l r rest s) := by
  have hpop : queuesBounded (popped l rest s) := queuesBounded_modLink (fun hb => by
    rw [hq, List.length_cons] at hb
    exact (Nat.le_succ _).trans hb) h
  obtain ⟨f, st, hl⟩ := runRequest_links l r (popped l rest s)
  refine queuesBounded_congr (s := (popped l rest s).modLink l fun k => { k with tx := .sending f, status := st })
    ?_ (queuesBounded_modLink id hpop)
  rw [execute_eq_popped, State.modLink_links, ← hl]
  simp

theorem composeClosing_queuesBounded (h : queuesBounded s) : queuesBounded (composeClosing l s) := by
  unfold composeClosing
  split
  · exact queuesBounded_modLink (f := fun k => { k with tx := .sending (shortReply .turn 0 0) }) id h
  · exact queuesBounded_modLink (f := fun k => { k with tx := .sending (errorReport s.links[l].summary) }) id
      (queuesBounded_modLink (f := fun k => { k with summary := 0 }) id h)

theorem abortTransmission_queuesBounded (h : queuesBounded s) : queuesBounded (abortTransmission l s) := by
  obtain ⟨rp, again, rr, st, he, -⟩ := abortTransmission_eq l s
  rw [he]
  exact queuesBounded_modLink (f := fun k => { k with status := st }) id h

theorem breakEvent_queuesBounded {order : BreakOrder} (h : queuesBounded s) :
    queuesBounded (breakEvent l order s) := by
  have hbefore : queuesBounded (beforeBreak l order s) := by
    cases order with
    | alone => exact h
    | afterDelivery =>
      show queuesBounded (deliveredOnly l s)
      unfold deliveredOnly
      split
      · exact queuesBounded_modLink (f := fun k => { k with tx := .idle }) id (deliverFrame_queuesBounded h)
      · exact h
      · exact h
  by_cases hr : s.links[l].receiver = .awaitMark true
  · unfold breakEvent; rw [hr]; exact h
  · rw [breakEvent_taken hr]
    have h1 : queuesBounded ((abortTransmission l (beforeBreak l order s)).modLink l Link.broken) :=
      queuesBounded_modLink (fun _ => Nat.zero_le _) (abortTransmission_queuesBounded hbefore)
    unfold breakTaken
    dsimp only
    split
    · exact queuesBounded_congr (by simp) h1
    · exact queuesBounded_congr (by simp) h1

end

theorem turnKeeps_queuesBounded : TurnKeeps queuesBounded fun _ => queuesBounded where
  guard _ _ _ _ h := h
  deliver _ _ _ _ _ := deliverFrame_queuesBounded
  execute _ _ _ _ _ := execute_queuesBounded
  closing _ _ _ := composeClosing_queuesBounded
  turn _ _ _ := queuesBounded_modLink (f := fun k => { k with tx := .sending (shortReply .turn 0 0) }) id
  endTurn _ _ _ := queuesBounded_modLink (f := fun k => { k with owner := .client, tx := .idle, receiver := .idle }) id

theorem commandsKeep_queuesBounded : CommandsKeep queuesBounded fun _ => queuesBounded where
  turns := turnKeeps_queuesBounded
  pending _ _ h := h
  reset q := (linksConsistent_reset q).1
  release _ _ h := h
  straps st ld s _ h l := by rw [sampleStraps_links, firstLink_queue]; exact h l
  tick _ _ _ := queuesBounded_congr (by simp)
  due _ _ _ := queuesBounded_congr (by simp)
  lease _ _ := queuesBounded_congr (by simp)
  pulse _ _ _ := queuesBounded_congr (by simp)
  confirm _ _ _ := queuesBounded_congr (by simp)
  grant _ _ := queuesBounded_congr (by simp)
  exchange _ _ _ := queuesBounded_congr (by simp)
  character _ _ _ _ := takeCharacter_queuesBounded
  fourthByte l b s _ h := by
    unfold Machine.fourthByte
    split
    · exact headerEvent_queuesBounded h
    · exact h
  lastCrcByte l b s _ h := by
    unfold Machine.lastCrcByte
    split
    · exact queuesBounded_modLink (Link.longArrived_hears _ _ _ _ _).2.1 h
    · exact h
  timeout _ _ _ := queuesBounded_modLink (Link.timeout_hears _).2.1
  framing l s _ h := by
    unfold framingEvent
    split
    · exact queuesBounded_modLink (Link.framingError_hears _).2.1 h
    · exact queuesBounded_modLink (f := fun k => k.record .contention) id h
  endDiscard _ _ _ := queuesBounded_modLink (Link.endDiscard_hears _).2.1
  contention l s _ h := by
    unfold contentionEvent
    split
    · exact h
    · exact queuesBounded_modLink (f := fun k => k.record .contention) id h
  lineBreak _ _ _ _ := breakEvent_queuesBounded
  returnToMark _ _ _ := queuesBounded_modLink (Link.markReturned_hears _).2.1

/-- Settles O53: each clause is an invariant that every change of which a command is made keeps; between two frames of a
turn the second is `betweenFrames`. -/
theorem stepKeepsLinksConsistent : Obligations.StepKeepsLinksConsistent := by
  unfold Obligations.StepKeepsLinksConsistent
  exact ⟨fun _ _ => commandsKeep_queuesBounded.step, fun _ _ => commandsKeep_linksConsistent.step⟩

end Sys2Proof.Machine

/-! PROOFS. O60, first part: what the operations on the capture memory do to its rings and slots (R106 to R119). Each
ring's records stand in the slots behind its head and nowhere else; a record handed over joins behind them, and records
leave from the head. -/

namespace Sys2Proof.Machine

/-! ## What the memory keeps -/

/-- R93, R101: the records in the memory have 1 to 4 entries in ascending channel order. -/
def recordsOk (s : State) : Prop :=
  ∀ (n : Nat) (r : CaptureRecord), readSlot s.slots n = some r → entriesOk (r.entries.map (·.channel))

/-- R106, R107, R117: the memory's part of the invariant. -/
structure memorySound (s : State) : Prop where
  rings : ringsHoldTheirRecords s
  reports : reportsWithinRings s
  records : recordsOk s

/-- R107: view `v`'s ring stands in `t` where it stands in `s`; an empty ring may be placed anew. -/
def ringStands (s t : State) (v : LinkId) : Prop :=
  t.rings[v].count = s.rings[v].count ∧ t.rings[v].head = s.rings[v].head ∧
    ((t.views[v].settings.ringBase = s.views[v].settings.ringBase ∧
        t.views[v].settings.ringLength = s.views[v].settings.ringLength) ∨
      (s.rings[v].count = 0 ∧ s.rings[v].head = 0))

theorem ringStands_of_eq {s t : State} {v : LinkId} (hr : t.rings = s.rings)
    (hv : t.views[v].settings = s.views[v].settings) : ringStands s t v := by
  refine ⟨by rw [hr], by rw [hr], .inl ?_⟩
  rw [hv]
  exact ⟨rfl, rfl⟩

theorem slotBehindHead_stands {s t : State} {v : LinkId} (h : ringStands s t v) {k : Nat}
    (hk : k < s.rings[v].count) : slotBehindHead t v k = slotBehindHead s v k := by
  obtain ⟨-, hhead, ⟨hbase, hlength⟩ | ⟨hempty, -⟩⟩ := h
  · unfold slotBehindHead; rw [hhead, hbase, hlength]
  · rw [hempty] at hk; exact absurd hk (Nat.not_lt_zero k)

theorem ringsHold_congr {s t : State} (hs : t.slots = s.slots) (hr : ∀ v : LinkId, ringStands s t v)
    (h : ringsHoldTheirRecords s) : ringsHoldTheirRecords t := by
  obtain ⟨hring, hother⟩ := h
  refine ⟨fun v => ?_, fun n hn => ?_⟩
  · obtain ⟨hcount, hhead, hplace⟩ := hr v
    obtain ⟨hle, hlt, hsome⟩ := hring v
    rw [hcount, hhead, hs]
    refine ⟨?_, ?_, fun k hk => by rw [slotBehindHead_stands (hr v) hk]; exact hsome k hk⟩
    · rcases hplace with ⟨-, hlength⟩ | ⟨hempty, -⟩
      · rw [hlength]; exact hle
      · rw [hempty]; exact Nat.zero_le _
    · rcases hplace with ⟨-, hlength⟩ | ⟨-, hzero⟩
      · rw [hlength]; exact hlt
      · exact .inr hzero
  · rw [hs]
    refine hother n fun v k hk => ?_
    rw [← slotBehindHead_stands (hr v) hk]
    exact hn v k (by rw [(hr v).1]; exact hk)

theorem reportsWithin_congr {s t : State} (hr : t.rings = s.rings) (h : reportsWithinRings s) :
    reportsWithinRings t := by
  unfold reportsWithinRings; rw [hr]; exact h

theorem recordsOk_congr {s t : State} (hs : t.slots = s.slots) (h : recordsOk s) : recordsOk t := by
  unfold recordsOk; rw [hs]; exact h

theorem memorySound_congr {s t : State} (hr : t.rings = s.rings) (hs : t.slots = s.slots)
    (hv : ∀ v : LinkId, t.views[v].settings = s.views[v].settings) (h : memorySound s) : memorySound t :=
  ⟨ringsHold_congr hs (fun v => ringStands_of_eq hr (hv v)) h.rings, reportsWithin_congr hr h.reports,
    recordsOk_congr hs h.records⟩

/-- A change of what a ring has reported, within the ring. -/
theorem memorySound_report {s : State} {l : LinkId} {x : Option CaptureReported}
    (hx : ∀ rep, x = some rep → rep.records ≤ s.rings[l].count ∧ rep.dropped ≤ s.rings[l].dropped)
    (h : memorySound s) : memorySound (s.modRing l fun g => { g with report := x }) := by
  obtain ⟨hrings, hreports, hrecords⟩ := h
  refine ⟨ringsHold_congr (s := s) rfl (fun v => ⟨?_, ?_, .inl ⟨rfl, rfl⟩⟩) hrings, fun v => ?_, hrecords⟩
  · exact get_upd_keeps Ring.count (v := s.rings) (i := l) (f := fun g => { g with report := x }) rfl v
  · exact get_upd_keeps Ring.head (v := s.rings) (i := l) (f := fun g => { g with report := x }) rfl v
  · rw [State.modRing_rings]
    by_cases hv : v = l
    · subst hv; rw [get_upd_eq]; exact ⟨(hreports v).1, hx⟩
    · rw [get_upd_ne hv]; exact hreports v

/-! ## A record handed over -/

theorem satInc_ge (max n : Nat) : n ≤ satInc max n := by
  unfold satInc; split <;> omega

/-- R112: what a record handed over does to a ring's counts. -/
theorem ringAfter_counts (s : State) (v : LinkId) (r : CaptureRecord) :
    (ringAfter s v r).head = s.rings[v].head ∧ s.rings[v].dropped ≤ (ringAfter s v r).dropped ∧
      (s.rings[v].dropped ≤ 255 → (ringAfter s v r).dropped ≤ 255) ∧
      (keeps s v r → (ringAfter s v r).count = s.rings[v].count + 1) ∧
      (¬keeps s v r → (ringAfter s v r).count = s.rings[v].count) := by
  unfold ringAfter keeps
  split
  · next hsel =>
    split
    · next hroom => exact ⟨rfl, le_refl _, id, fun _ => rfl, fun hn => absurd ⟨hsel, hroom⟩ hn⟩
    · next hfull => exact ⟨rfl, satInc_ge _ _, satInc_le, fun hk => absurd hk.2 hfull, fun _ => rfl⟩
  · next hsel => exact ⟨rfl, le_refl _, id, fun hk => absurd hk.1 hsel, fun _ => rfl⟩

theorem ringAfter_count_le (s : State) (v : LinkId) (r : CaptureRecord) :
    s.rings[v].count ≤ (ringAfter s v r).count := by
  obtain ⟨-, -, -, hkept, hother⟩ := ringAfter_counts s v r
  by_cases hk : keeps s v r
  · rw [hkept hk]; exact Nat.le_succ _
  · rw [hother hk]

theorem slotBehindHead_appendRecord {s : State} (hd : ringsDisjoint s) (r : CaptureRecord) (v : LinkId) (k : Nat) :
    slotBehindHead (appendRecord r s) v k = slotBehindHead s v k := by
  unfold slotBehindHead
  rw [(appendRecord_spec r hd).1 v, (ringAfter_counts s v r).1, (appendRecord_frame r s).2.2.2.2.2.2.2.1]

theorem appendRecord_ringsHold {s : State} (hd : ringsDisjoint s) (r : CaptureRecord)
    (h : ringsHoldTheirRecords s) : ringsHoldTheirRecords (appendRecord r s) := by
  obtain ⟨hring, hother⟩ := h
  obtain ⟨hrings, hnew, hold⟩ := appendRecord_spec r hd
  have hviews : (appendRecord r s).views = s.views := (appendRecord_frame r s).2.2.2.2.2.2.2.1
  refine ⟨fun v => ?_, fun n hn => ?_⟩
  · obtain ⟨hle, hlt, hsome⟩ := hring v
    obtain ⟨hhead, -, -, hkept, hnot⟩ := ringAfter_counts s v r
    rw [hviews, hrings v, hhead]
    have stays : ∀ k < s.rings[v].count,
        (readSlot (appendRecord r s).slots (slotBehindHead (appendRecord r s) v k)).isSome = true := by
      intro k hk
      rw [slotBehindHead_appendRecord hd, hold _ fun w hw e => ?_]
      · exact hsome k hk
      · obtain ⟨rfl, rfl⟩ := slotBehindHead_inj hd (hk.trans_le hle) hw.2 e
        exact absurd hk (lt_irrefl _)
    by_cases hk : keeps s v r
    · rw [hkept hk]
      refine ⟨hk.2, hlt, fun k hlast => ?_⟩
      rcases Nat.lt_succ_iff_lt_or_eq.1 hlast with hlow | rfl
      · exact stays k hlow
      · rw [slotBehindHead_appendRecord hd, hnew v hk]; rfl
    · rw [hnot hk]
      exact ⟨hle, hlt, stays⟩
  · have hn' : ∀ (v : LinkId) (k : Nat), k < (ringAfter s v r).count → n ≠ slotBehindHead s v k := fun v k hk => by
      rw [← slotBehindHead_appendRecord hd r]
      exact hn v k (by rw [hrings v]; exact hk)
    rw [hold n fun v hk => hn' v _ (by rw [(ringAfter_counts s v r).2.2.2.1 hk]; exact Nat.lt_succ_self _)]
    exact hother n fun v k hk => hn' v k (hk.trans_le (ringAfter_count_le s v r))

theorem appendRecord_reportsWithin {s : State} (hd : ringsDisjoint s) (r : CaptureRecord)
    (h : reportsWithinRings s) : reportsWithinRings (appendRecord r s) := by
  intro v
  obtain ⟨hmax, hrep⟩ := h v
  obtain ⟨-, hmore, hsat, -, -⟩ := ringAfter_counts s v r
  rw [(appendRecord_spec r hd).1 v, ringAfter_report]
  refine ⟨hsat hmax, fun rep hr => ?_⟩
  obtain ⟨hrecords, hdropped⟩ := hrep rep hr
  exact ⟨hrecords.trans (ringAfter_count_le s v r), hdropped.trans hmore⟩

theorem appendRecord_recordsOk {s : State} (hd : ringsDisjoint s) {r : CaptureRecord}
    (hr : entriesOk (r.entries.map (·.channel))) (h : recordsOk s) : recordsOk (appendRecord r s) := by
  intro n r' hn
  obtain ⟨-, hnew, hold⟩ := appendRecord_spec r hd
  by_cases hslot : ∃ v : LinkId, keeps s v r ∧ n = slotBehindHead s v s.rings[v].count
  · obtain ⟨v, hk, rfl⟩ := hslot
    rw [hnew v hk] at hn
    cases hn
    exact hr
  · rw [hold n fun v hk e => hslot ⟨v, hk, e⟩] at hn
    exact h n r' hn

/-- R102, R112: a finished record is handed over. -/
theorem appendRecord_memorySound {s : State} (hd : ringsDisjoint s) {r : CaptureRecord}
    (hr : entriesOk (r.entries.map (·.channel))) (h : memorySound s) : memorySound (appendRecord r s) :=
  ⟨appendRecord_ringsHold hd r h.rings, appendRecord_reportsWithin hd r h.reports,
    appendRecord_recordsOk hd hr h.records⟩

/-! ## Records leave from the head -/

theorem recordsOk_clearSlots {s t : State} {is : List Nat} (hs : t.slots = clearSlots s.slots is) (h : recordsOk s) :
    recordsOk t := by
  intro n r hn
  rw [hs, readSlot_clearSlots] at hn
  split at hn
  · cases hn
  · exact h n r hn

/-- The slots of the `m` oldest records of view `l`'s ring are emptied, and those behind them stay the records of its
ring; every other ring stays. -/
theorem ringsHold_of_cleared {s t : State} {l : LinkId} {m : Nat} (hd : ringsDisjoint s)
    (hm : m ≤ s.rings[l].count) (hs : t.slots = clearSlots s.slots (headSlots s l m)) (hv : t.views = s.views)
    (hother : ∀ v : LinkId, v ≠ l → t.rings[v] = s.rings[v]) (hcount : t.rings[l].count = s.rings[l].count - m)
    (hhead : t.rings[l].head < 8 * s.views[l].settings.ringLength ∨ t.rings[l].head = 0)
    (hslot : ∀ j < s.rings[l].count - m, slotBehindHead t l j = slotBehindHead s l (m + j))
    (h : ringsHoldTheirRecords s) : ringsHoldTheirRecords t := by
  obtain ⟨hring, hnone⟩ := h
  have hsame : ∀ v : LinkId, v ≠ l → ∀ k, slotBehindHead t v k = slotBehindHead s v k := fun v hne k => by
    unfold slotBehindHead; rw [hother v hne, hv]
  have hread : ∀ n, (∀ j < m, n ≠ slotBehindHead s l j) → readSlot t.slots n = readSlot s.slots n := fun n hn => by
    rw [hs, readSlot_clearSlots, if_neg]
    rw [mem_headSlots]
    rintro ⟨j, hj, rfl⟩
    exact hn j hj rfl
  refine ⟨fun v => ?_, fun n hn => ?_⟩
  · by_cases hvl : v = l
    · subst hvl
      obtain ⟨hle, -, hsome⟩ := hring v
      rw [hv, hcount]
      refine ⟨(Nat.sub_le _ _).trans hle, hhead, fun k hk => ?_⟩
      rw [hslot k hk, hread _ fun j hj e => ?_]
      · exact hsome _ (by omega)
      · have := (slotBehindHead_inj hd (by omega) (by omega) e).2
        omega
    · obtain ⟨hle, hlt, hsome⟩ := hring v
      rw [hv, hother v hvl]
      refine ⟨hle, hlt, fun k hk => ?_⟩
      rw [hsame v hvl, hread _ fun j hj e => ?_]
      · exact hsome k hk
      · have hlen := (hring l).1
        exact hvl (slotBehindHead_inj hd (hk.trans_le hle) (by omega) e).1
  · by_cases hcleared : ∃ j < m, n = slotBehindHead s l j
    · rw [hs, readSlot_clearSlots, if_pos (mem_headSlots.2 hcleared)]
    · rw [hread n fun j hj e => hcleared ⟨j, hj, e⟩]
      refine hnone n fun v k hk e => ?_
      by_cases hvl : v = l
      · subst hvl
        by_cases hkm : k < m
        · exact hcleared ⟨k, hkm, e⟩
        · refine hn v (k - m) (by rw [hcount]; omega) ?_
          rw [hslot _ (by omega), show m + (k - m) = k by omega]
          exact e
      · exact hn v k (by rw [hother v hvl]; exact hk) (by rw [hsame v hvl]; exact e)

theorem emptyRing_rings (l : LinkId) (s : State) :
    (emptyRing l s).rings[l] = { s.rings[l] with head := 0, count := 0, dropped := 0 } ∧
      ∀ v : LinkId, v ≠ l → (emptyRing l s).rings[v] = s.rings[v] :=
  ⟨get_put_eq, fun _ hv => get_put_ne hv⟩

/-- R110, R111: a ring is emptied while none of its records is in flight. -/
theorem emptyRing_memorySound {s : State} {l : LinkId} (hd : ringsDisjoint s) (hrep : s.rings[l].report = none)
    (h : memorySound s) : memorySound (emptyRing l s) := by
  obtain ⟨hempty, hother⟩ := emptyRing_rings l s
  refine ⟨ringsHold_of_cleared (m := s.rings[l].count) hd (le_refl _) rfl rfl hother (by rw [hempty, Nat.sub_self])
    (.inr (by rw [hempty])) (fun j hj => absurd hj (by omega)) h.rings, fun v => ?_,
    recordsOk_clearSlots rfl h.records⟩
  by_cases hv : v = l
  · subst hv
    rw [hempty]
    refine ⟨Nat.zero_le _, fun rep hr => ?_⟩
    rw [show ({ s.rings[v] with head := 0, count := 0, dropped := 0 } : Ring).report = s.rings[v].report from rfl,
      hrep] at hr
    cases hr
  · rw [hother v hv]; exact h.reports v

/-- R118: the ring of view `l` at the delivery of a CAPTURE REPORT. -/
theorem deliverCapture_ring {s : State} {l : LinkId} {rep : CaptureReported} (hr : s.rings[l].report = some rep) :
    (deliverCapture l s).rings[l] =
      { head := (s.rings[l].head + rep.records) % (8 * s.views[l].settings.ringLength)
        count := s.rings[l].count - rep.records
        dropped := s.rings[l].dropped - rep.dropped
        report := none } ∧
      (∀ v : LinkId, v ≠ l → (deliverCapture l s).rings[v] = s.rings[v]) ∧
      (deliverCapture l s).slots = clearSlots s.slots (headSlots s l rep.records) := by
  unfold deliverCapture
  rw [hr]
  refine ⟨?_, fun v hv => ?_, rfl⟩
  · rw [(attendAll_frame _).2.2.2.2.2.2.2.2.2.2.1, State.modRing_rings, get_upd_eq, removeHead, get_put_eq]
    rfl
  · rw [(attendAll_frame _).2.2.2.2.2.2.2.2.2.2.1, State.modRing_rings, get_upd_ne hv, removeHead, get_put_ne hv]

/-- R118: the records that a CAPTURE REPORT has reported leave from the head, and the drops with them. -/
theorem deliverCapture_memorySound {s : State} {l : LinkId} (hd : ringsDisjoint s) (h : memorySound s) :
    memorySound (deliverCapture l s) := by
  cases hr : s.rings[l].report with
  | none => unfold deliverCapture; rw [hr]; exact h
  | some rep =>
    obtain ⟨hring, hother, hslots⟩ := deliverCapture_ring hr
    obtain ⟨hmax, hreps⟩ := h.reports l
    obtain ⟨hrecords, -⟩ := hreps rep hr
    have hviews : (deliverCapture l s).views = s.views := by simp
    refine ⟨ringsHold_of_cleared (m := rep.records) hd hrecords hslots hviews hother (by rw [hring]) ?_ ?_ h.rings,
      fun v => ?_, recordsOk_clearSlots hslots h.records⟩
    · rw [hring]
      obtain ⟨hle, hlt, -⟩ := h.rings.1 l
      rcases Nat.eq_zero_or_pos (8 * s.views[l].settings.ringLength) with hz | hpos
      · rw [hz] at hle hlt ⊢
        simp only [Nat.mod_zero]
        omega
      · exact .inl (Nat.mod_lt _ hpos)
    · intro j _
      unfold slotBehindHead
      rw [hring, hviews]
      simp only [Nat.mod_add_mod, Nat.add_assoc]
    · by_cases hv : v = l
      · subst hv
        rw [hring]
        exact ⟨(Nat.sub_le _ _).trans hmax, fun rep hn => by cases hn⟩
      · rw [hother v hv]; exact h.reports v

/-! ## A CAPTURE READ -/

theorem takeRecords_length (n room : Nat) (rs : List CaptureRecord) : (takeRecords n room rs).length ≤ rs.length := by
  induction n generalizing room rs with
  | zero => exact Nat.zero_le _
  | succ n ih =>
    cases rs with
    | nil => exact Nat.zero_le _
    | cons r rs =>
      unfold takeRecords
      split
      · exact Nat.succ_le_succ (ih _ rs)
      · exact Nat.zero_le _

theorem ringRecords_length (s : State) (v : LinkId) : (ringRecords s v).length ≤ s.rings[v].count := by
  unfold ringRecords
  refine (List.length_filterMap_le _ _).trans ?_
  unfold headSlots
  rw [List.length_map, List.length_range]

/-- R115, R117: a CAPTURE READ reports no more than its ring holds. -/
theorem runCaptureRead_memorySound {s : State} {l : LinkId} {n : Byte} (h : memorySound s) :
    memorySound (runCaptureRead l n s) := by
  unfold runCaptureRead
  split
  · exact memorySound_congr (s := s) rfl rfl (fun _ => rfl) h
  · dsimp only
    refine memorySound_congr (s := s.modRing l fun g => { g with report := _ }) rfl rfl (fun _ => rfl)
      (memorySound_report (fun rep hr => ?_) h)
    cases hr
    exact ⟨(takeRecords_length _ _ _).trans (ringRecords_length s l), le_refl _⟩

end Sys2Proof.Machine

/-! PROOFS. O60, second part: the triggers, their captures in flight and the records that those become (R89 to R102). -/

namespace Sys2Proof.Machine

/-! ## What the triggers keep -/

/-- R89, R90: a trigger is watched exactly while its enable setting is 1, and none else has a confirmation owed. -/
def watchSound (enable : Bool) (g : Trigger) : Prop :=
  (g.watch = .off ↔ enable = false) ∧ (g.watch = .off → g.confirmOwed = false)

/-- R93, R101: a capture has 1 to 4 entries in ascending channel order. -/
def captureOk (c : Option Capture) : Prop := ∀ cap, c = some cap → entriesOk (cap.entries.map (·.channel))

/-- R102: a capture in flight has an unfilled entry. -/
def captureWaits (c : Option Capture) : Prop := ∀ cap, c = some cap → ∃ e ∈ cap.entries, e.stage.waiting = true

/-- What holds of a trigger within an event, before its finished capture is handed over. -/
def triggersFair (s : State) : Prop :=
  ∀ i : TriggerId, watchSound s.settings.triggers[i].enable s.triggers[i] ∧ captureOk s.triggers[i].capture

/-- R89, R90, R101, R102: the triggers' part of the invariant. -/
def triggersSound (s : State) : Prop := triggersFair s ∧ ∀ i : TriggerId, captureWaits s.triggers[i].capture

/-- The invariant, by its parts. -/
theorem captureMemoryConsistent_iff {s : State} :
    captureMemoryConsistent s ↔ memorySound s ∧ triggersSound s ∧
      (s.phase ≠ .running → ∀ v : LinkId, s.rings[v].head = 0 ∧ s.rings[v].count = 0) := by
  constructor
  · rintro ⟨hrings, hreports, ⟨htriggers, hrecords⟩, hphase⟩
    refine ⟨⟨hrings, hreports, hrecords⟩, ⟨fun i => ?_, fun i cap hcap => ((htriggers i).2.2 cap hcap).2⟩, hphase⟩
    exact ⟨⟨(htriggers i).1, (htriggers i).2.1⟩, fun cap hcap => ((htriggers i).2.2 cap hcap).1⟩
  · rintro ⟨⟨hrings, hreports, hrecords⟩, ⟨hfair, hwaits⟩, hphase⟩
    refine ⟨hrings, hreports, ⟨fun i => ?_, hrecords⟩, hphase⟩
    obtain ⟨⟨hwatch, howed⟩, hok⟩ := hfair i
    exact ⟨hwatch, howed, fun cap hcap => ⟨hok cap hcap, hwaits i cap hcap⟩⟩

theorem captureMemory_of_running {s : State} (hr : s.phase = .running) (hm : memorySound s) (ht : triggersSound s) :
    captureMemoryConsistent s := captureMemoryConsistent_iff.2 ⟨hm, ht, fun hn => absurd hr hn⟩

theorem triggersFair_congr {s t : State} (hs : t.settings.triggers = s.settings.triggers)
    (ht : t.triggers = s.triggers) (h : triggersFair s) : triggersFair t := by
  unfold triggersFair; rw [hs, ht]; exact h

theorem triggersSound_congr {s t : State} (hs : t.settings.triggers = s.settings.triggers)
    (ht : t.triggers = s.triggers) (h : triggersSound s) : triggersSound t :=
  ⟨triggersFair_congr hs ht h.1, by rw [ht]; exact h.2⟩

/-- An event that touches neither the memory nor a trigger. -/
theorem captureMemory_congr {s t : State} (hp : t.phase = s.phase) (hs : t.settings.triggers = s.settings.triggers)
    (hv : ∀ v : LinkId, t.views[v].settings = s.views[v].settings) (ht : t.triggers = s.triggers)
    (hsl : t.slots = s.slots) (hr : t.rings = s.rings) (h : captureMemoryConsistent s) :
    captureMemoryConsistent t := by
  obtain ⟨hmem, htrig, hphase⟩ := captureMemoryConsistent_iff.1 h
  exact captureMemoryConsistent_iff.2 ⟨memorySound_congr hr hsl hv hmem, triggersSound_congr hs ht htrig,
    by rw [hp, hr]; exact hphase⟩

theorem captureMemory_congr_views {s t : State} (hp : t.phase = s.phase)
    (hs : t.settings.triggers = s.settings.triggers) (hv : t.views = s.views) (ht : t.triggers = s.triggers)
    (hsl : t.slots = s.slots) (hr : t.rings = s.rings) (h : captureMemoryConsistent s) :
    captureMemoryConsistent t := captureMemory_congr hp hs (fun v => by rw [hv]) ht hsl hr h

theorem attendAll_captureMemory {s : State} (h : captureMemoryConsistent s) : captureMemoryConsistent (attendAll s) :=
  captureMemory_congr_views (by simp) (by simp) (by simp) (by simp) (by simp) (by simp) h

theorem modTrigger_memorySound {t : TriggerId} {f : Trigger → Trigger} {s : State} (h : memorySound s) :
    memorySound (s.modTrigger t f) :=
  memorySound_congr (State.modTrigger_rings s t f) (State.modTrigger_slots s t f) (fun _ => rfl) h

/-! ## Finished captures -/

/-- R102: the record of a finished capture has the capture's channels. -/
theorem channels_of_isRecordOf {cap : Capture} {r : CaptureRecord} (h : isRecordOf cap r) :
    r.entries.map (·.channel) = cap.entries.map (·.channel) := by
  obtain ⟨-, -, -, he⟩ := h
  rw [he, List.map_map]
  rfl

theorem completeCapture_entriesOk {s : State} {t : TriggerId} {r : CaptureRecord} (h : triggersFair s)
    (hr : completeCapture? s t = some r) : entriesOk (r.entries.map (·.channel)) := by
  obtain ⟨-, cap, hcap, hrec⟩ := (completeCapture_some s t r).1 hr
  rw [channels_of_isRecordOf hrec]
  exact (h t).2 cap hcap

theorem captureOk_stillInFlight {c : Option Capture} (h : captureOk c) :
    captureOk (stillInFlight c) ∧ captureWaits (stillInFlight c) := by
  unfold stillInFlight
  split
  · exact ⟨h, fun cap hc => by cases hc⟩
  · split
    · next cap hw =>
      refine ⟨h, fun cap' hc => ?_⟩
      cases hc
      exact hw
    · exact ⟨fun cap hc => (by cases hc), fun cap hc => (by cases hc)⟩

theorem finishCapture_triggersFair {s : State} (t : TriggerId) (h : triggersFair s) :
    triggersFair (finishCapture s t) := by
  intro i
  obtain ⟨hwatch, hok⟩ := h i
  rw [finishCapture_triggers, (finishCapture_frame s t).2.2.2.1]
  split
  · exact ⟨hwatch, (captureOk_stillInFlight hok).1⟩
  · exact ⟨hwatch, hok⟩

theorem finishCapture_memorySound {s : State} (t : TriggerId) (hd : ringsDisjoint s) (hf : triggersFair s)
    (h : memorySound s) : memorySound (finishCapture s t) := by
  unfold finishCapture
  split
  · exact h
  · next r hr =>
    exact appendRecord_memorySound (s := s.modTrigger t _) (ringsDisjoint_congr (fun _ => rfl) hd)
      (completeCapture_entriesOk hf hr) (modTrigger_memorySound h)

/-- R101, R102: one trigger's capture is looked at, where the others have been. -/
theorem finishCapture_sound {s : State} {t : TriggerId} (hd : ringsDisjoint s) (hf : triggersFair s)
    (hw : ∀ i : TriggerId, i ≠ t → captureWaits s.triggers[i].capture) (h : memorySound s) :
    memorySound (finishCapture s t) ∧ triggersSound (finishCapture s t) := by
  refine ⟨finishCapture_memorySound t hd hf h, finishCapture_triggersFair t hf, fun i => ?_⟩
  rw [finishCapture_triggers]
  split
  · exact (captureOk_stillInFlight (hf i).2).2
  · next hi => exact hw i hi

/-- R102: at the end of an event the finished captures are handed over, and those that stay wait for an entry. -/
theorem finishCaptures_sound {s : State} (hd : ringsDisjoint s) (hf : triggersFair s) (h : memorySound s) :
    memorySound (finishCaptures s) ∧ triggersSound (finishCaptures s) := by
  have key := foldl_preserves (fun u => ringsDisjoint u ∧ triggersFair u ∧ memorySound u) finishCapture
    (fun u t hu => ⟨ringsDisjoint_congr (by simp) hu.1, finishCapture_triggersFair t hu.2.1,
      finishCapture_memorySound t hu.1 hu.2.1 hu.2.2⟩) allTriggers s ⟨hd, hf, h⟩
  refine ⟨key.2.2, key.2.1, fun i => ?_⟩
  rw [finishCaptures_triggers]
  exact (captureOk_stillInFlight (hf i).2).2

/-! ## Entries -/

theorem mapEntries_triggers (f : Entry → Entry) (s : State) (i : TriggerId) :
    (mapEntries f s).triggers[i] = { s.triggers[i] with
      capture := s.triggers[i].capture.map fun cap => { cap with entries := cap.entries.map f } } := by
  simp [mapEntries]

/-- A change of the stages of entries keeps their channels. -/
theorem mapEntries_triggersFair {f : Entry → Entry} {s : State} (hf : ∀ e, (f e).channel = e.channel)
    (h : triggersFair s) : triggersFair (mapEntries f s) := by
  intro i
  rw [mapEntries_triggers, (mapEntries_frame f s).2.2.2.1]
  refine ⟨(h i).1, fun cap' hc => ?_⟩
  obtain ⟨cap, hcap, rfl⟩ := Option.map_eq_some_iff.1 hc
  have hch : (cap.entries.map f).map (·.channel) = cap.entries.map (·.channel) := by
    rw [List.map_map]
    exact List.map_congr_left fun e _ => hf e
  exact hch.symm ▸ (h i).2 cap hcap

theorem fill_channel (sel : EntryStage → Bool) (c : ChannelId) (filled : EntryStage) (e : Entry) :
    (Entry.fill sel c filled e).channel = e.channel := by
  unfold Entry.fill; split <;> rfl

theorem grant_channel (c : ChannelId) (e : Entry) : (Entry.grant c e).channel = e.channel := by
  unfold Entry.grant; split <;> rfl

/-- R96: an entry granted still waits. -/
theorem grant_waiting (c : ChannelId) {e : Entry} (h : e.stage.waiting = true) :
    (Entry.grant c e).stage.waiting = true := by
  unfold Entry.grant
  split
  · rfl
  · exact h

theorem grantEntries_triggersSound {c : ChannelId} {s : State} (h : triggersSound s) :
    triggersSound (grantEntries c s) := by
  refine ⟨mapEntries_triggersFair (grant_channel c) h.1, fun i cap' hc => ?_⟩
  rw [grantEntries, mapEntries_triggers] at hc
  obtain ⟨cap, hcap, rfl⟩ := Option.map_eq_some_iff.1 hc
  obtain ⟨e, he, hw⟩ := h.2 i cap hcap
  exact ⟨_, List.mem_map_of_mem he, grant_waiting c hw⟩

/-- R97 to R99, R102: entries are filled, and the captures that this finishes are handed over. -/
theorem fillAndFinish_sound {sel : EntryStage → Bool} {c : ChannelId} {x : EntryStatus} {s : State}
    (hd : ringsDisjoint s) (hf : triggersFair s) (h : memorySound s) :
    memorySound (finishCaptures (fillEntries sel c x s)) ∧
      triggersSound (finishCaptures (fillEntries sel c x s)) :=
  finishCaptures_sound (ringsDisjoint_congr (by simp) hd) (mapEntries_triggersFair (fill_channel sel c _) hf)
    (memorySound_congr (by simp) (by simp) (by simp) h)

/-! ## Qualified edges -/

/-- R87, R93: the channels of a legal mask are 1 to 4, in ascending order. -/
theorem maskChannels_entriesOk {m : Byte} (hm : maskCount m ≤ 4) (hz : m ≠ 0) : entriesOk (maskChannels m) := by
  refine ⟨?_, hm, List.Pairwise.filter _ (by decide : allChannels.Pairwise (· < ·))⟩
  rw [Nat.one_le_iff_ne_zero, Ne, List.length_eq_zero_iff]
  intro hnil
  refine hz (BitVec.eq_of_getLsbD_eq fun i hi => ?_)
  have := List.filter_eq_nil_iff.1 hnil ⟨i, hi⟩ (mem_allChannels _)
  simpa using this

theorem captureAtEdge_channels (s : State) (t : TriggerId) (edge : Edge) :
    (captureAtEdge s t edge).entries.map (·.channel) = maskChannels s.settings.triggers[t].mask := by
  unfold captureAtEdge
  rw [List.map_map]
  exact List.map_id' _

theorem triggerLegal_entriesOk {ts : TriggerSettings} (hl : triggerLegal ts = true) (he : ts.enable = true) :
    entriesOk (maskChannels ts.mask) := by
  unfold triggerLegal at hl
  rw [he] at hl
  simp only [Bool.and_eq_true, decide_eq_true_eq, Bool.true_and, Bool.not_eq_true', decide_eq_false_iff_not] at hl
  exact maskChannels_entriesOk hl.1 hl.2

/-- R94, R95: an edge opens a capture, which is handed over at once if no entry waits. -/
theorem openCapture_sound {t : TriggerId} {edge : Edge} {s : State} (hd : ringsDisjoint s)
    (he : entriesOk (maskChannels s.settings.triggers[t].mask)) (ht : triggersSound s) (h : memorySound s) :
    memorySound (openCapture t edge s) ∧ triggersSound (openCapture t edge s) := by
  unfold openCapture
  refine finishCapture_sound (ringsDisjoint_congr (s := s) (by simp) hd) (fun i => ?_) (fun i hi => ?_)
    (memorySound_congr (s := s) (by simp) (by simp) (by simp) h)
  · rw [State.modTrigger_triggers, State.modTrigger_settings, (requestRefresh_frame s t).2.2.2.1,
      (requestRefresh_frame s t).2.2.2.2.2.2.2.2.1]
    by_cases hi : i = t
    · subst hi
      rw [get_upd_eq]
      refine ⟨(ht.1 i).1, fun cap hc => ?_⟩
      cases hc
      rw [captureAtEdge_channels]
      exact he
    · rw [get_upd_ne hi]; exact ht.1 i
  · rw [State.modTrigger_triggers, get_upd_ne hi, (requestRefresh_frame s t).2.2.2.2.2.2.2.2.1]
    exact ht.2 i

/-- A change of one trigger that keeps its watch and its capture's entries. -/
theorem modTrigger_triggersSound {t : TriggerId} {f : Trigger → Trigger} {s : State}
    (hw : watchSound s.settings.triggers[t].enable s.triggers[t] →
      watchSound s.settings.triggers[t].enable (f s.triggers[t]))
    (hc : captureOk s.triggers[t].capture ∧ captureWaits s.triggers[t].capture →
      captureOk (f s.triggers[t]).capture ∧ captureWaits (f s.triggers[t]).capture)
    (h : triggersSound s) : triggersSound (s.modTrigger t f) := by
  obtain ⟨hfair, hwaits⟩ := h
  have hone := hc ⟨(hfair t).2, hwaits t⟩
  refine ⟨fun i => ?_, fun i => ?_⟩ <;> rw [State.modTrigger_triggers] <;> by_cases hi : i = t
  · subst hi; rw [get_upd_eq]; exact ⟨hw (hfair i).1, hone.1⟩
  · rw [get_upd_ne hi]; exact hfair i
  · subst hi; rw [get_upd_eq]; exact hone.2
  · rw [get_upd_ne hi]; exact hwaits i

theorem qualifiedEdge_sound {t : TriggerId} {edge : Edge} {s : State} (hd : ringsDisjoint s)
    (he : entriesOk (maskChannels s.settings.triggers[t].mask)) (ht : triggersSound s) (h : memorySound s) :
    memorySound (qualifiedEdge t edge s) ∧ triggersSound (qualifiedEdge t edge s) := by
  unfold qualifiedEdge
  split
  · exact openCapture_sound hd he ht h
  · next cap hcap =>
    refine ⟨modTrigger_memorySound h, modTrigger_triggersSound id (fun hc => ?_) ht⟩
    refine ⟨fun cap' hc' => ?_, fun cap' hc' => ?_⟩ <;> cases hc'
    · exact hc.1 cap hcap
    · exact hc.2 cap hcap

/-- R91, R92: a change is confirmed of a trigger that is watched, and so enabled, with a legal mask. -/
theorem confirmEvent_captureMemory {t : TriggerId} {s : State} (hr : s.phase = .running) (hl : settingsLegal s)
    (h : captureMemoryConsistent s) : captureMemoryConsistent (confirmEvent t s) := by
  obtain ⟨hmem, htrig, -⟩ := captureMemoryConsistent_iff.1 h
  unfold confirmEvent
  dsimp only
  split
  · next howed =>
    have hwatch : s.triggers[t].watch ≠ .off := fun hoff => by
      rw [(htrig.1 t).1.2 hoff] at howed; cases howed
    have henable : s.settings.triggers[t].enable = true := by
      cases he : s.settings.triggers[t].enable with
      | true => rfl
      | false => exact absurd ((htrig.1 t).1.1.2 he) hwatch
    have htrig' := modTrigger_triggersSound (t := t)
      (f := fun g => { g with stable := g.stable.flip, run := 0, confirmOwed := false })
      (fun hw => ⟨hw.1, fun _ => rfl⟩) id htrig
    split
    · obtain ⟨hm, ht⟩ := qualifiedEdge_sound (edge := changeFrom s.triggers[t].stable) (s := s.modTrigger t _)
        (ringsDisjoint_congr (fun _ => rfl) (ringsDisjoint_of_legal hl))
        (triggerLegal_entriesOk (hl.2.1 t).2 henable) htrig' (modTrigger_memorySound hmem)
      exact attendAll_captureMemory (captureMemory_of_running (by simpa using hr) hm ht)
    · exact captureMemory_of_running hr (modTrigger_memorySound hmem) htrig'
  · exact h

/-! ## Ticks and grants -/

theorem sample_capture (filter : Nat) (level : Level) (g : Trigger) : (g.sample filter level).capture = g.capture := by
  unfold Trigger.sample
  split
  · rfl
  · rfl
  · split <;> rfl

theorem sample_watchSound {enable : Bool} {filter : Nat} {level : Level} {g : Trigger} (h : watchSound enable g) :
    watchSound enable (g.sample filter level) := by
  have on : ∀ g' : Trigger, g.watch ≠ .off → g'.watch = .watching → watchSound enable g' := fun g' hg hw => by
    refine ⟨⟨fun hoff => ?_, fun he => absurd (h.1.2 he) hg⟩, fun hoff => ?_⟩ <;> rw [hw] at hoff <;> cases hoff
  unfold Trigger.sample
  split
  · exact h
  · next hw => exact on _ (by rw [hw]; exact WatchStage.noConfusion) rfl
  · next hw => split <;> exact on _ (by rw [hw]; exact WatchStage.noConfusion) hw

theorem advance_captureMemory {trg : BitVec 4} {s : State} (h : captureMemoryConsistent s) :
    captureMemoryConsistent (advance trg s) := by
  obtain ⟨hmem, ⟨hfair, hwaits⟩, hphase⟩ := captureMemoryConsistent_iff.1 h
  have ht : ∀ i : TriggerId, (advance trg s).triggers[i] =
      s.triggers[i].sample s.settings.triggers[i].filter (levelOf (trg.getLsbD i.val)) := fun i => by simp [advance]
  refine captureMemoryConsistent_iff.2 ⟨memorySound_congr (s := s) rfl rfl (fun _ => rfl) hmem,
    ⟨fun i => ?_, fun i => ?_⟩, hphase⟩ <;> rw [ht i, sample_capture]
  · exact ⟨sample_watchSound (hfair i).1, (hfair i).2⟩
  · exact hwaits i

theorem leaseExpiryEvent_captureMemory {s : State} (h : captureMemoryConsistent s) :
    captureMemoryConsistent (leaseExpiryEvent s) :=
  captureMemory_congr (by simp) (by simp) (leaseExpiryEvent_viewSettings s) (by simp) (by simp) (by simp) h

/-- R157: the events left over from the tick before, each from a running state with legal settings. -/
theorem settleTick_captureMemory {s : State} (hr : s.phase = .running) (hl : settingsLegal s)
    (h : captureMemoryConsistent s) : captureMemoryConsistent (settleTick s) := by
  have hdue := foldl_preserves (fun u => u.phase = .running ∧ settingsLegal u ∧ captureMemoryConsistent u)
    (fun s c => dueExpiryEvent c s) (fun u c hu => ⟨by simpa using hu.1,
      commandsKeep_settingsLegal.due c u hu.1 hu.2.1,
      captureMemory_congr_views (by simp) (by simp) (by simp) (by simp) (by simp) (by simp) hu.2.2⟩)
    allChannels s ⟨hr, hl, h⟩
  have hlease : (leaseExpiryEvent (allChannels.foldl (fun s c => dueExpiryEvent c s) s)).phase = .running ∧
      settingsLegal (leaseExpiryEvent (allChannels.foldl (fun s c => dueExpiryEvent c s) s)) ∧
      captureMemoryConsistent (leaseExpiryEvent (allChannels.foldl (fun s c => dueExpiryEvent c s) s)) :=
    ⟨by rw [(leaseExpiryEvent_frame _).1]; exact hdue.1, commandsKeep_settingsLegal.lease _ hdue.1 hdue.2.1,
      leaseExpiryEvent_captureMemory hdue.2.2⟩
  have hconfirm := foldl_preserves (fun u => u.phase = .running ∧ settingsLegal u ∧ captureMemoryConsistent u)
    (fun s t => confirmEvent t s) (fun u t hu => ⟨by simpa using hu.1,
      commandsKeep_settingsLegal.confirm t u hu.1 hu.2.1, confirmEvent_captureMemory hu.1 hu.2.1 hu.2.2⟩)
    allTriggers _ hlease
  unfold settleTick
  exact foldl_preserves captureMemoryConsistent (fun s v => pulseTickEvent v s)
    (fun u v => captureMemory_congr_views (by simp) (by simp) (by simp) (by simp) (by simp) (by simp)) allLinks _
    hconfirm.2.2

theorem grantEvent_captureMemory {s : State} (hr : s.phase = .running) (h : captureMemoryConsistent s) :
    captureMemoryConsistent (grantEvent s) := by
  obtain ⟨hmem, htrig, -⟩ := captureMemoryConsistent_iff.1 h
  refine captureMemory_of_running (by simpa using hr) (memorySound_congr (s := s) (by simp) (by simp) (by simp) hmem) ?_
  unfold grantEvent
  split
  · split
    · exact grantEntries_triggersSound (triggersSound_congr (s := s) rfl rfl htrig)
    · exact htrig
  · exact htrig

/-! ## Completions -/

section
variable {c : ChannelId} {s : State}

theorem motionSuccess_sound {x y : BitVec 12} {q : Byte} (hd : ringsDisjoint s) (ht : triggersSound s)
    (h : memorySound s) : memorySound (motionSuccess c x y q s) ∧ triggersSound (motionSuccess c x y q s) := by
  have hv : ∀ v : LinkId, (accumulateAll c x y q (s.modChannel c (Channel.moved x y))).views[v].settings =
      s.views[v].settings := fun v => by simp [accumulateAll, accumulate_settings]
  exact fillAndFinish_sound (ringsDisjoint_congr (s := s) hv hd) (triggersFair_congr (s := s) rfl rfl ht.1)
    (memorySound_congr (s := s) rfl rfl hv h)

theorem motionFailure_sound {cause : FaultCause} (hd : ringsDisjoint s) (ht : triggersSound s)
    (h : memorySound s) : memorySound (motionFailure c cause s) ∧ triggersSound (motionFailure c cause s) := by
  have hv : ∀ v : LinkId, (gapAll c (s.modChannel c (Channel.motionFailed cause))).views[v].settings =
      s.views[v].settings := fun v => by simp [gapAll, countGap_settings]
  exact fillAndFinish_sound (ringsDisjoint_congr (s := s) hv hd) (triggersFair_congr (s := s) rfl rfl ht.1)
    (memorySound_congr (s := s) rfl rfl hv h)

theorem applyCompletion_sound {e : Exchange} {o : ExchangeOutcome} (hd : ringsDisjoint s) (ht : triggersSound s)
    (h : memorySound s) : memorySound (applyCompletion e o s) ∧ triggersSound (applyCompletion e o s) := by
  have keep : ∀ t : State, t.rings = s.rings → t.slots = s.slots → t.settings = s.settings →
      t.triggers = s.triggers → (∀ v : LinkId, t.views[v].settings = s.views[v].settings) →
      memorySound t ∧ triggersSound t := fun t h1 h2 h3 h4 h5 =>
    ⟨memorySound_congr h1 h2 h5 h, triggersSound_congr (by rw [h3]) h4 ht⟩
  unfold applyCompletion
  split
  · refine keep _ (by simp) (by simp) (by simp) (by simp) fun v => ?_
    unfold discardedCompletion
    split
    · simp [gapAll, countGap_settings]
    · rfl
  · unfold applyOutcome
    split
    case h_5 => exact motionSuccess_sound hd ht h
    case h_6 => exact motionFailure_sound hd ht h
    all_goals exact keep _ rfl rfl rfl rfl fun _ => rfl

end

theorem exchangeEvent_captureMemory {sdi : List (Samples 8)} {s : State} (hr : s.phase = .running)
    (hl : settingsLegal s) (h : captureMemoryConsistent s) : captureMemoryConsistent (exchangeEvent sdi s) := by
  obtain ⟨hmem, htrig, -⟩ := captureMemoryConsistent_iff.1 h
  unfold exchangeEvent
  split
  · exact h
  · split
    · exact captureMemory_congr_views (s := s) rfl rfl rfl rfl rfl rfl h
    · next e he _ e' o _ =>
      obtain ⟨hm, ht⟩ := applyCompletion_sound (s := { s with bus := { s.bus with exchange := none } }) (e := e')
        (o := o) (ringsDisjoint_congr (fun _ => rfl) (ringsDisjoint_of_legal hl))
        (triggersSound_congr (s := s) rfl rfl htrig) (memorySound_congr (s := s) rfl rfl (fun _ => rfl) hmem)
      exact attendAll_captureMemory (captureMemory_of_running (by simpa using hr) hm ht)

end Sys2Proof.Machine

/-! PROOFS. O60, concluded: strap sampling, accepted writes, the turn of a link, its breaks, and every step. -/

namespace Sys2Proof.Machine

/-! ## A ring placed anew -/

/-- R106, R110: rings that stand, or are empty, keep the memory wherever they are placed. -/
theorem memorySound_place {s t : State} (hr : t.rings = s.rings) (hs : t.slots = s.slots)
    (hv : ∀ v : LinkId, ringStands s t v) (h : memorySound s) : memorySound t :=
  ⟨ringsHold_congr hs hv h.rings, reportsWithin_congr hr h.reports, recordsOk_congr hs h.records⟩

/-- R106: strap sampling finds every ring empty. -/
theorem sampleStraps_captureMemory {st : Straps} {ld : BitVec 4} {s : State} (hp : s.phase ≠ .running)
    (h : captureMemoryConsistent s) : captureMemoryConsistent (sampleStraps st ld s) := by
  obtain ⟨hmem, htrig, hempty⟩ := captureMemoryConsistent_iff.1 h
  refine captureMemory_of_running rfl (memorySound_place (s := s) rfl rfl (fun v => ?_) hmem)
    (triggersSound_congr (s := s) rfl rfl htrig)
  obtain ⟨hhead, hcount⟩ := hempty hp v
  exact ⟨rfl, rfl, .inr ⟨hcount, hhead⟩⟩

theorem readSlot_replicate_none (n : Nat) : readSlot (Vector.replicate 128 none) n = none := by
  unfold readSlot
  split
  · exact Vector.getElem_replicate _
  · rfl

theorem captureMemory_reset (q : List Instr) : captureMemoryConsistent { State.reset with pending := q } := by
  have hring : ∀ v : LinkId, ({ State.reset with pending := q } : State).rings[v] = Ring.reset :=
    fun v => get_replicate _ v
  have htrig : ∀ i : TriggerId, ({ State.reset with pending := q } : State).triggers[i] = Trigger.reset :=
    fun i => get_replicate _ i
  have hslot : ∀ n, readSlot ({ State.reset with pending := q } : State).slots n = none := readSlot_replicate_none
  refine captureMemoryConsistent_iff.2 ⟨⟨⟨fun v => ?_, fun n _ => hslot n⟩, fun v => ?_, fun n r hn => ?_⟩,
    ⟨fun i => ?_, fun i cap hc => ?_⟩, fun _ v => ?_⟩
  · rw [hring]
    exact ⟨Nat.zero_le _, .inr rfl, fun k hk => absurd hk (Nat.not_lt_zero k)⟩
  · rw [hring]
    exact ⟨Nat.zero_le _, fun rep hr => by cases hr⟩
  · rw [hslot] at hn; cases hn
  · rw [htrig, show ({ State.reset with pending := q } : State).settings.triggers[i] = TriggerSettings.reset from
      get_replicate _ i]
    exact ⟨⟨⟨fun _ => rfl, fun _ => rfl⟩, fun _ => rfl⟩, fun cap hc => by cases hc⟩
  · rw [htrig] at hc; cases hc
  · rw [hring]; exact ⟨rfl, rfl⟩

/-! ## Accepted writes -/

section
variable {s : State} {l : LinkId}

theorem applyEnable_captureMemory {old new : Settings} {c : ChannelId} (hr : s.phase = .running)
    (hd : ringsDisjoint s) (h : captureMemoryConsistent s) : captureMemoryConsistent (applyEnable old new s c) := by
  unfold applyEnable
  split
  · exact captureMemory_congr_views (s := s) rfl rfl rfl rfl rfl rfl h
  · obtain ⟨hmem, htrig, -⟩ := captureMemoryConsistent_iff.1 h
    have hstop := fillAndFinish_sound (sel := EntryStage.waiting) (c := c) (x := .stale)
      (s := { (s.modChannel c Channel.disabled).modPoll c Poll.disabled with bus := markDiscard c s.bus })
      (ringsDisjoint_congr (fun _ => rfl) hd) (triggersFair_congr (s := s) rfl rfl htrig.1)
      (memorySound_congr (s := s) rfl rfl (fun _ => rfl) hmem)
    exact captureMemory_of_running (by simpa using hr) hstop.1 hstop.2
  · exact h
  · exact h

/-- A change of one trigger and its settings that leaves its capture alone. -/
theorem triggersSound_at {t : State} (i : TriggerId)
    (hs : ∀ j : TriggerId, j ≠ i → t.settings.triggers[j] = s.settings.triggers[j])
    (ht : ∀ j : TriggerId, j ≠ i → t.triggers[j] = s.triggers[j])
    (hw : watchSound t.settings.triggers[i].enable t.triggers[i])
    (hc : t.triggers[i].capture = s.triggers[i].capture) (h : triggersSound s) : triggersSound t := by
  refine ⟨fun j => ?_, fun j => ?_⟩ <;> by_cases hj : j = i
  · subst hj; rw [hc]; exact ⟨hw, (h.1 j).2⟩
  · rw [hs j hj, ht j hj]; exact h.1 j
  · subst hj; rw [hc]; exact h.2 j
  · rw [ht j hj]; exact h.2 j

/-- R90: a trigger's watch starts and stops with its enable setting. -/
theorem applyTriggerEnable_captureMemory {i : TriggerId} {ts : TriggerSettings} (hr : s.phase = .running)
    (h : captureMemoryConsistent s) :
    captureMemoryConsistent (applyTriggerEnable s.settings { s.settings with triggers := put s.settings.triggers i ts }
      { s with settings := { s.settings with triggers := put s.settings.triggers i ts } } i) := by
  obtain ⟨hmem, htrig, -⟩ := captureMemoryConsistent_iff.1 h
  refine captureMemory_of_running (by simpa using hr)
    (memorySound_congr (s := s) (by simp) (by simp) (by simp) hmem) ?_
  have hset : ∀ j : TriggerId, j ≠ i → (put s.settings.triggers i ts)[j] = s.settings.triggers[j] :=
    fun j hj => get_put_ne hj
  have hsame : s.settings.triggers[i].enable = ts.enable →
      triggersSound { s with settings := { s.settings with triggers := put s.settings.triggers i ts } } := fun he =>
    triggersSound_at (s := s) i hset (fun _ _ => rfl) (by dsimp only; rw [get_put_eq, ← he]; exact (htrig.1 i).1) rfl htrig
  unfold applyTriggerEnable
  dsimp only
  rw [get_put_eq]
  split
  · next he =>
    refine triggersSound_at (s := s) i hset (fun j hj => get_upd_ne hj) ?_
      (by rw [State.modTrigger_triggers, get_upd_eq]; rfl) htrig
    rw [State.modTrigger_settings, State.modTrigger_triggers, get_upd_eq]
    dsimp only
    rw [get_put_eq, he]
    exact ⟨⟨fun hw => (by cases hw), fun hw => (by cases hw)⟩, fun _ => rfl⟩
  · next he =>
    refine triggersSound_at (s := s) i hset (fun j hj => get_upd_ne hj) ?_
      (by rw [State.modTrigger_triggers, get_upd_eq]; rfl) htrig
    rw [State.modTrigger_settings, State.modTrigger_triggers, get_upd_eq]
    dsimp only
    rw [get_put_eq, he]
    exact ⟨⟨fun _ => rfl, fun _ => rfl⟩, fun _ => rfl⟩
  · next h1 h2 => exact hsame (h1.trans h2.symm)
  · next h1 h2 => exact hsame (h1.trans h2.symm)

/-- R110: a write that names ring base or ring length empties the ring before it is placed anew. -/
theorem applyOwn_captureMemory {own : ViewSettings} {run : List Setting} (hr : s.phase = .running)
    (hd : ringsDisjoint s) (hrep : s.rings[l].report = none)
    (hplace : touchesRing run = false → own.ringBase = s.views[l].settings.ringBase ∧
      own.ringLength = s.views[l].settings.ringLength)
    (h : captureMemoryConsistent s) : captureMemoryConsistent (applyOwn l own (applyPlacement l run s)) := by
  obtain ⟨hmem, htrig, -⟩ := captureMemoryConsistent_iff.1 h
  have hother : ∀ (u : State) (v : LinkId), v ≠ l → ringStands u (applyOwn l own u) v := fun u v hv =>
    ringStands_of_eq (by simp) (congrArg View.settings (get_upd_ne hv))
  have hown : ∀ u : State, (applyOwn l own u).views[l].settings = own := fun u => congrArg View.settings get_upd_eq
  refine captureMemory_of_running (by simpa using hr) ?_ (triggersSound_congr (s := s) (by simp) (by simp) htrig)
  unfold applyPlacement
  split
  · refine memorySound_place (s := emptyRing l s) (by simp) (by simp) (fun v => ?_) (emptyRing_memorySound hd hrep hmem)
    by_cases hv : v = l
    · subst hv
      have hempty := (emptyRing_rings v s).1
      exact ⟨by simp, by simp, .inr ⟨congrArg Ring.count hempty, congrArg Ring.head hempty⟩⟩
    · exact hother _ v hv
  · next htouch =>
    refine memorySound_place (s := s) (by simp) (by simp) (fun v => ?_) hmem
    by_cases hv : v = l
    · subst hv
      refine ⟨by simp, by simp, .inl ?_⟩
      rw [hown]
      exact hplace (by simpa using htouch)
    · exact hother _ v hv

theorem applyWrite_captureMemory {p : List Byte} {w : AcceptedWrite} (hw : checkWrite s l p = .ok w)
    (hr : s.phase = .running) (hd : ringsDisjoint s) (hrep : s.rings[l].report = none)
    (h : captureMemoryConsistent s) : captureMemoryConsistent (applyWrite l w s) := by
  cases leftIn_of_ok hw with
  | channel c hrun hown hshared =>
    obtain ⟨cs, hs⟩ := hshared
    rw [applyWrite_channel hrun hown hs]
    have hset : captureMemoryConsistent { s with settings := w.left.shared } :=
      captureMemory_congr_views (s := s) rfl (by rw [hs]) rfl rfl rfl rfl h
    exact attendAll_captureMemory (captureMemory_congr_views (by simp) (by simp) (by simp) (by simp) (by simp) (by simp)
      (applyEnable_captureMemory (old := s.settings) (new := w.left.shared) (c := c)
        (s := { s with settings := w.left.shared }) hr (ringsDisjoint_congr (fun _ => rfl) hd) hset))
  | trigger i hrun hown hshared =>
    obtain ⟨ts, hs⟩ := hshared
    rw [applyWrite_trigger hrun hown hs, hs]
    exact attendAll_captureMemory (applyTriggerEnable_captureMemory hr h)
  | global hrun hown hshared =>
    obtain ⟨n, hs⟩ := hshared
    rw [applyWrite_global hrun hown hs]
    exact attendAll_captureMemory (captureMemory_congr_views (s := s) rfl (by rw [hs]) rfl rfl rfl rfl h)
  | own hrun hs =>
    obtain ⟨a, values, -, -, -, hwrite, -, -⟩ := checkWrite_ok hw
    rw [applyWrite_own hrun hs]
    exact attendAll_captureMemory (captureMemory_congr_views (by simp) (by simp) (by simp) (by simp) (by simp) (by simp)
      (applyOwn_captureMemory hr hd hrep (fun ht => writeRun_placement hwrite ht) h))

/-! ## The turn of a link -/

theorem runViewReset_captureMemory (hr : s.phase = .running) (hd : ringsDisjoint s)
    (hrep : s.rings[l].report = none) (h : captureMemoryConsistent s) :
    captureMemoryConsistent (runViewReset l s) := by
  obtain ⟨hmem, htrig, -⟩ := captureMemoryConsistent_iff.1 h
  have hv : ∀ v : LinkId, (s.modView l View.clear).views[v].settings = s.views[v].settings := fun v =>
    get_upd_keeps (v := s.views) View.settings rfl v
  have hempty : memorySound (emptyRing l (s.modView l View.clear)) :=
    emptyRing_memorySound (ringsDisjoint_congr hv hd) hrep (memorySound_congr (s := s) rfl rfl hv hmem)
  have hall : captureMemoryConsistent (emptyRing l (s.modView l View.clear)) :=
    captureMemory_of_running (by simpa using hr) hempty (triggersSound_congr (s := s) (by simp) (by simp) htrig)
  exact captureMemory_congr_views (by simp [runViewReset]) (by simp [runViewReset]) (by simp [runViewReset])
    (by simp [runViewReset]) (by simp [runViewReset]) (by simp [runViewReset]) hall

theorem runRequest_captureMemory {r : Request} (hr : s.phase = .running) (hd : ringsDisjoint s)
    (hrep : s.rings[l].report = none) (h : captureMemoryConsistent s) :
    captureMemoryConsistent (runRequest l r s) := by
  have others : (∀ p, r ≠ .settingWrite p) → (runRequest l r s).triggers = s.triggers →
      (runRequest l r s).slots = s.slots → (runRequest l r s).rings = s.rings →
      captureMemoryConsistent (runRequest l r s) := fun hne h1 h2 h3 =>
    captureMemory_congr (by simp) (by rw [runRequest_settings hne]) (runRequest_viewSettings hne) h1 h2 h3 h
  cases r with
  | captureRead n =>
    obtain ⟨hmem, htrig, -⟩ := captureMemoryConsistent_iff.1 h
    exact captureMemory_of_running (by simpa using hr) (runCaptureRead_memorySound hmem)
      (triggersSound_congr (by simp [runRequest]) (by simp [runRequest]) htrig)
  | viewReset => exact runViewReset_captureMemory hr hd hrep h
  | settingWrite p =>
    show captureMemoryConsistent (runSettingWrite l p s)
    unfold runSettingWrite
    split
    · exact captureMemory_congr_views (s := s) (by simp) (by simp) (by simp) (by simp) (by simp) (by simp) h
    · next w hw =>
      exact captureMemory_congr_views (s := applyWrite l w s) (by simp) (by simp) (by simp) (by simp) (by simp)
        (by simp) (applyWrite_captureMemory hw hr hd hrep h)
  | _ =>
    exact others (fun _ => Request.noConfusion) (by simp [runRequest]) (by simp [runRequest]) (by simp [runRequest])

theorem execute_captureMemory {r : Request} {rest : List Request} (hr : s.phase = .running) (hd : ringsDisjoint s)
    (hrep : s.rings[l].report = none) (h : captureMemoryConsistent s) :
    captureMemoryConsistent (execute l r rest s) := by
  have hpop : captureMemoryConsistent (popped l rest s) :=
    captureMemory_congr_views (s := s) rfl rfl rfl rfl rfl rfl h
  rw [execute_eq_popped]
  exact captureMemory_congr_views (s := runRequest l r (popped l rest s)) (by simp) (by simp) (by simp) (by simp)
    (by simp) (by simp) (runRequest_captureMemory (s := popped l rest s) hr (ringsDisjoint_congr (fun _ => rfl) hd) hrep hpop)

theorem deliverFrame_captureMemory {kind : ReplyKind} (hr : s.phase = .running) (hd : ringsDisjoint s)
    (h : captureMemoryConsistent s) : captureMemoryConsistent (deliverFrame l kind s) := by
  cases kind with
  | captureReport =>
    obtain ⟨hmem, htrig, -⟩ := captureMemoryConsistent_iff.1 h
    exact captureMemory_of_running (by simpa using hr) (deliverCapture_memorySound hd hmem)
      (triggersSound_congr (by simp) (by simp) htrig)
  | _ =>
    exact captureMemory_congr (by simp) (by simp) (deliverFrame_viewSettings l _ s) (by simp)
      (by simp [deliverFrame]) (by simp [deliverFrame]) h

/-! ## Breaks -/

theorem abortTransmission_captureMemory (hr : s.phase = .running) (h : captureMemoryConsistent s) :
    captureMemoryConsistent (abortTransmission l s) := by
  have hv : ∀ v : LinkId, (abortTransmission l s).views[v].settings = s.views[v].settings :=
    viewSettings_of fun hP => everyView_abortTransmission hP
  revert hv
  unfold abortTransmission
  split
  · next f _ =>
    intro hv
    obtain ⟨kind, bytes, left⟩ := f
    cases kind with
    | captureReport =>
      obtain ⟨hmem, htrig, -⟩ := captureMemoryConsistent_iff.1 h
      exact captureMemory_of_running hr (memorySound_report (fun rep hn => by cases hn) hmem)
        (triggersSound_congr (s := s) rfl rfl htrig)
    | _ =>
      exact captureMemory_congr (by simp) (by simp) hv (by simp) (by simp) (by simp [abortFrame]) h
  · exact fun _ => h
  · exact fun _ => h

theorem loseLease_viewSettings (v : LinkId) : (loseLease s).views[v].settings = s.views[v].settings :=
  viewSettings_of (fun hP => everyView_loseLease hP.toPartEventsKeep) v

theorem breakTaken_captureMemory (hr : s.phase = .running) (h : captureMemoryConsistent s) :
    captureMemoryConsistent (breakTaken l s) := by
  have hbroken : captureMemoryConsistent ((abortTransmission l s).modLink l Link.broken) :=
    captureMemory_congr_views (s := abortTransmission l s) rfl rfl rfl rfl rfl rfl
      (abortTransmission_captureMemory hr h)
  unfold breakTaken
  dsimp only
  split
  · exact attendAll_captureMemory (captureMemory_congr (by simp) (by simp) loseLease_viewSettings (by simp) (by simp)
      (by simp) hbroken)
  · exact attendAll_captureMemory hbroken

theorem beforeBreak_captureMemory {order : BreakOrder} (hr : s.phase = .running) (hd : ringsDisjoint s)
    (h : captureMemoryConsistent s) : captureMemoryConsistent (beforeBreak l order s) := by
  cases order with
  | alone => exact h
  | afterDelivery =>
    show captureMemoryConsistent (deliveredOnly l s)
    unfold deliveredOnly
    split
    · exact captureMemory_congr_views (s := deliverFrame l _ s) rfl rfl rfl rfl rfl rfl (deliverFrame_captureMemory hr hd h)
    · exact h
    · exact h

theorem breakEvent_captureMemory {order : BreakOrder} (hr : s.phase = .running) (hd : ringsDisjoint s)
    (h : captureMemoryConsistent s) : captureMemoryConsistent (breakEvent l order s) := by
  by_cases ha : s.links[l].receiver = .awaitMark true
  · unfold breakEvent; rw [ha]; exact h
  · rw [breakEvent_taken ha]
    exact breakTaken_captureMemory (by simpa using hr) (beforeBreak_captureMemory hr hd h)

end

/-! ## Every step -/

/-- The invariants that together keep the capture memory. -/
def memoryInvariants (s : State) : Prop := settingsLegal s ∧ linksConsistent s ∧ captureMemoryConsistent s

/-- What holds of them between two frames of a turn. -/
def memoryBetween (l : LinkId) (s : State) : Prop :=
  settingsLegal s ∧ betweenFrames l s ∧ captureMemoryConsistent s

/-- Three invariants, of which the first two are kept on their own. -/
theorem turnKeeps_memoryInvariants : TurnKeeps memoryInvariants memoryBetween where
  guard l s ho ht h := ⟨h.1, turnKeeps_linksConsistent.guard l s ho ht h.2.1, h.2.2⟩
  deliver l f s ho ht h := ⟨turnKeeps_settingsLegal.deliver l f s ho ht h.1,
    turnKeeps_linksConsistent.deliver l f s ho ht h.2.1,
    deliverFrame_captureMemory (running_of_operating ho) (ringsDisjoint_of_legal h.1) h.2.2⟩
  execute l r rest s ho hq h := ⟨turnKeeps_settingsLegal.execute l r rest s ho hq h.1,
    turnKeeps_linksConsistent.execute l r rest s ho hq h.2.1,
    execute_captureMemory (running_of_operating ho) (ringsDisjoint_of_legal h.1) h.2.1.2.capture h.2.2⟩
  closing l s ho h := ⟨turnKeeps_settingsLegal.closing l s ho h.1, turnKeeps_linksConsistent.closing l s ho h.2.1,
    captureMemory_congr_views (by simp) (by simp) (by simp) (by simp) (by simp) (by simp) h.2.2⟩
  turn l s ho h := ⟨turnKeeps_settingsLegal.turn l s ho h.1, turnKeeps_linksConsistent.turn l s ho h.2.1,
    captureMemory_congr_views (by simp) (by simp) (by simp) (by simp) (by simp) (by simp) h.2.2⟩
  endTurn l s ho h := ⟨turnKeeps_settingsLegal.endTurn l s ho h.1, turnKeeps_linksConsistent.endTurn l s ho h.2.1,
    captureMemory_congr_views (by simp) (by simp) (by simp) (by simp) (by simp) (by simp) h.2.2⟩

/-- A change that keeps the settings and the links, and touches neither the memory nor a trigger. -/
theorem memoryInvariants_of {s t : State} (hs : settingsLegal s → settingsLegal t)
    (hl : linksConsistent s → linksConsistent t) (hm : captureMemoryConsistent s → captureMemoryConsistent t)
    (h : memoryInvariants s) : memoryInvariants t := ⟨hs h.1, hl h.2.1, hm h.2.2⟩

theorem captureMemory_modLink {l : LinkId} {f : Link → Link} {s : State} (h : captureMemoryConsistent s) :
    captureMemoryConsistent (s.modLink l f) := captureMemory_congr_views (s := s) rfl rfl rfl rfl rfl rfl h

theorem commandsKeep_memoryInvariants : CommandsKeep memoryInvariants memoryBetween where
  turns := turnKeeps_memoryInvariants
  pending _ _ h := h
  reset q := ⟨settingsLegal_reset q, linksConsistent_reset q, captureMemory_reset q⟩
  release s hp := memoryInvariants_of (commandsKeep_settingsLegal.release s hp) (commandsKeep_linksConsistent.release s hp)
    fun h => ⟨h.1, h.2.1, h.2.2.1, fun _ => h.2.2.2 (by rw [hp]; exact Phase.noConfusion)⟩
  straps st ld s hp := memoryInvariants_of (commandsKeep_settingsLegal.straps st ld s hp)
    (commandsKeep_linksConsistent.straps st ld s hp) fun h =>
      sampleStraps_captureMemory (s := { s with tickCount := s.tickCount + 1 })
        (show s.phase ≠ .running by rw [hp]; exact Phase.noConfusion) h
  tick trg s hp h := ⟨commandsKeep_settingsLegal.tick trg s hp h.1, commandsKeep_linksConsistent.tick trg s hp h.2.1,
    advance_captureMemory (settleTick_captureMemory hp h.1 h.2.2)⟩
  due c s hp := memoryInvariants_of (commandsKeep_settingsLegal.due c s hp) (commandsKeep_linksConsistent.due c s hp)
    (captureMemory_congr_views (by simp) (by simp) (by simp) (by simp) (by simp) (by simp))
  lease s hp := memoryInvariants_of (commandsKeep_settingsLegal.lease s hp) (commandsKeep_linksConsistent.lease s hp)
    leaseExpiryEvent_captureMemory
  pulse v s hp := memoryInvariants_of (commandsKeep_settingsLegal.pulse v s hp)
    (commandsKeep_linksConsistent.pulse v s hp)
    (captureMemory_congr_views (by simp) (by simp) (by simp) (by simp) (by simp) (by simp))
  confirm t s hp h := memoryInvariants_of (commandsKeep_settingsLegal.confirm t s hp)
    (commandsKeep_linksConsistent.confirm t s hp) (confirmEvent_captureMemory hp h.1) h
  grant s hp := memoryInvariants_of (commandsKeep_settingsLegal.grant s hp) (commandsKeep_linksConsistent.grant s hp)
    (grantEvent_captureMemory hp)
  exchange sdi s hp h := memoryInvariants_of (commandsKeep_settingsLegal.exchange sdi s hp)
    (commandsKeep_linksConsistent.exchange sdi s hp) (exchangeEvent_captureMemory hp h.1) h
  character l line s ho := memoryInvariants_of (commandsKeep_settingsLegal.character l line s ho)
    (commandsKeep_linksConsistent.character l line s ho)
    (captureMemory_congr_views (by simp) (by simp) (by simp) (by simp) (by simp) (by simp))
  fourthByte l b s ho := memoryInvariants_of (commandsKeep_settingsLegal.fourthByte l b s ho)
    (commandsKeep_linksConsistent.fourthByte l b s ho)
    (captureMemory_congr_views (by simp) (by simp) (by simp) (by simp) (by simp) (by simp))
  lastCrcByte l b s ho := memoryInvariants_of (commandsKeep_settingsLegal.lastCrcByte l b s ho)
    (commandsKeep_linksConsistent.lastCrcByte l b s ho)
    (captureMemory_congr_views (by simp) (by simp) (by simp) (by simp) (by simp) (by simp))
  timeout l s ho := memoryInvariants_of (commandsKeep_settingsLegal.timeout l s ho)
    (commandsKeep_linksConsistent.timeout l s ho) captureMemory_modLink
  framing l s ho := memoryInvariants_of (commandsKeep_settingsLegal.framing l s ho)
    (commandsKeep_linksConsistent.framing l s ho)
    (captureMemory_congr_views (by simp) (by simp) (by simp) (by simp) (by simp) (by simp))
  endDiscard l s ho := memoryInvariants_of (commandsKeep_settingsLegal.endDiscard l s ho)
    (commandsKeep_linksConsistent.endDiscard l s ho) captureMemory_modLink
  contention l s ho := memoryInvariants_of (commandsKeep_settingsLegal.contention l s ho)
    (commandsKeep_linksConsistent.contention l s ho)
    (captureMemory_congr_views (by simp) (by simp) (by simp) (by simp) (by simp) (by simp))
  lineBreak l order s ho h := memoryInvariants_of (commandsKeep_settingsLegal.lineBreak l order s ho)
    (commandsKeep_linksConsistent.lineBreak l order s ho)
    (breakEvent_captureMemory (running_of_operating ho) (ringsDisjoint_of_legal h.1)) h
  returnToMark l s ho := memoryInvariants_of (commandsKeep_settingsLegal.returnToMark l s ho)
    (commandsKeep_linksConsistent.returnToMark l s ho) captureMemory_modLink

/-- Settles O60: the capture memory is kept together with the legal settings and the consistent links, which every
command keeps as well. -/
theorem stepKeepsTheCaptureMemory : Obligations.StepKeepsTheCaptureMemory := by
  unfold Obligations.StepKeepsTheCaptureMemory
  intro s t hs hl hm hstep
  exact (commandsKeep_memoryInvariants.step ⟨hs, hl, hm⟩ hstep).2.2

/-- Settles O52: each invariant at the state that RESET leaves, with no command waiting. -/
theorem invariantsHoldAtReset : Obligations.InvariantsHoldAtReset := by
  unfold Obligations.InvariantsHoldAtReset
  exact ⟨commandsKeep_queuesBounded.reset [], everyView_reset viewKeeps_matchesMask [], settingsLegal_reset [],
    leaseConsistent_reset [], channelsConsistent_reset [],
    attentionCurrent_of_not_running (show State.reset.phase ≠ .running from Phase.noConfusion),
    everyView_reset viewKeeps_withinLimits [], linksConsistent_reset [], captureMemory_reset []⟩

end Sys2Proof.Machine

/-! PROOFS. O5 to O9: strap sampling, ticks, expiries and attention (R40, R61, R65 to R70, R90, R91, R106, R121, R157 to
R159). -/

namespace Sys2Proof.Machine

/-! ## Events of the part -/

/-- A command of the part, after strap sampling, answers what its event leaves. -/
theorem exec_running {i : Instr} {s : State} {f : State → State} (h : effect i s = whenRunning f s)
    (hr : s.phase = .running) : exec i s = .next (f s) := by
  rw [exec_eq_effect, h, whenRunning, if_pos hr]

/-- A fold whose every step leaves `s` alone leaves it alone. -/
theorem foldl_fixed {σ ι : Type} {f : σ → ι → σ} {s : σ} (h : ∀ x, f s x = s) (xs : List ι) : xs.foldl f s = s := by
  induction xs with
  | nil => rfl
  | cons x xs ih => rw [List.foldl_cons, h, ih]

/-! ## Expiries -/

theorem dueExpiryEvent_of_expiring {c : ChannelId} {s : State} (h : s.polls[c].countdown = .expiring) :
    dueExpiryEvent c s = s.modPoll c fun p => { p with due := true, countdown := .stopped } := by
  unfold dueExpiryEvent; rw [h]

theorem dueExpiryEvent_of_not_expiring {c : ChannelId} {s : State} (h : s.polls[c].countdown ≠ .expiring) :
    dueExpiryEvent c s = s := by
  unfold dueExpiryEvent
  split
  · next he => exact absurd he h
  · rfl
  · rfl

theorem leaseExpiryEvent_of_expiring {s : State} (h : s.lease.countdown = .expiring) :
    leaseExpiryEvent s = attendAll (loseLease s) := by
  unfold leaseExpiryEvent; rw [h]

theorem leaseExpiryEvent_of_not_expiring {s : State} (h : s.lease.countdown ≠ .expiring) :
    leaseExpiryEvent s = s := by
  unfold leaseExpiryEvent
  split
  · next he => exact absurd he h
  · rfl
  · rfl

theorem loseLease_of_held {l : LinkId} {s : State} (h : s.lease.holder = some l) :
    loseLease s = { s with
      lease := { holder := none, countdown := .stopped }
      views := upd s.views l fun v =>
        { v with leaseLost := true, lostAgain := v.lostAgain || noticeBeingTold s l } } := by
  unfold loseLease; rw [h]; rfl

theorem pulseTickEvent_of_not_owed {v : LinkId} {s : State} (h : s.attention[v].tickOwed = false) :
    pulseTickEvent v s = s := by
  unfold pulseTickEvent; rw [h]; rfl

theorem confirmEvent_of_not_owed {t : TriggerId} {s : State} (h : s.triggers[t].confirmOwed = false) :
    confirmEvent t s = s := by
  unfold confirmEvent; simp only [h]; rfl

/-- Settles O8: the events of R40 and R121, each at an expiry that waits. -/
theorem expiriesTakeEffect : Obligations.ExpiriesTakeEffect := by
  unfold Obligations.ExpiriesTakeEffect
  refine ⟨fun c s hr hc => ?_, fun l s hr hh hc => ?_⟩
  · rw [exec_running (i := .dueCountdownExpiry c) rfl hr, dueExpiryEvent_of_expiring hc]
    rfl
  · rw [exec_running (i := .leaseExpiry) rfl hr, leaseExpiryEvent_of_expiring hc, loseLease_of_held hh]
    rfl

/-! ## Ticks -/

/-- R157: with nothing left over from the tick before, a tick advances the state it finds. -/
theorem settleTick_of_nothingOwed {s : State} (h : nothingOwed s) : settleTick s = s := by
  obtain ⟨hdue, hlease, hpulse, hconfirm⟩ := h
  unfold settleTick
  dsimp only
  rw [foldl_fixed (f := fun s c => dueExpiryEvent c s) (fun c => dueExpiryEvent_of_not_expiring (hdue c)),
    leaseExpiryEvent_of_not_expiring hlease,
    foldl_fixed (f := fun s t => confirmEvent t s) (fun t => confirmEvent_of_not_owed (hconfirm t)),
    foldl_fixed (f := fun s v => pulseTickEvent v s) (fun v => pulseTickEvent_of_not_owed (hpulse v))]

theorem exec_tick_of_nothingOwed {trg : BitVec 4} {s : State} (hr : s.phase = .running) (h : nothingOwed s) :
    exec (.tick trg) s = .next (advance trg s) := by
  rw [exec_running (i := .tick trg) rfl hr]
  exact congrArg (fun u => Host.Outcome.next (advance trg u)) (settleTick_of_nothingOwed h)

theorem Countdown.tick_running (n : Nat) : Countdown.tick (.running (n + 2)) = .running (n + 1) := by
  simp [Countdown.tick]

theorem Countdown.tick_last : Countdown.tick (.running 1) = .expiring := rfl

theorem advance_poll (trg : BitVec 4) (s : State) (c : ChannelId) :
    (advance trg s).polls[c] = { s.polls[c] with countdown := s.polls[c].countdown.tick } := by
  simp [advance, Poll.ticked]

theorem advance_attention (trg : BitVec 4) (s : State) (v : LinkId) :
    (advance trg s).attention[v] =
      { s.attention[v] with tickOwed := decide (s.views[v].settings.attentionMode = .pulse) } := by
  simp [advance, Attention.ticked]

theorem advance_trigger (trg : BitVec 4) (s : State) (i : TriggerId) :
    (advance trg s).triggers[i] =
      s.triggers[i].sample s.settings.triggers[i].filter (levelOf (trg.getLsbD i.val)) := by
  simp [advance]

/-- R40: a poll whose expiry, if one waits, has been taken. -/
def Poll.settled (p : Poll) : Poll :=
  match p.countdown with
  | .expiring => { p with due := true, countdown := .stopped }
  | .running _ => p
  | .stopped => p

theorem Poll.settled_of_expiring {p : Poll} (h : p.countdown = .expiring) :
    p.settled = { p with due := true, countdown := .stopped } := by
  unfold Poll.settled; rw [h]

theorem Poll.settled_settled (p : Poll) : p.settled.settled = p.settled := by
  cases h : p.countdown with
  | expiring => rw [Poll.settled_of_expiring h]; rfl
  | running n => have hs : p.settled = p := by unfold Poll.settled; rw [h]
                 rw [hs, hs]
  | stopped => have hs : p.settled = p := by unfold Poll.settled; rw [h]
               rw [hs, hs]

theorem dueExpiryEvent_poll (c : ChannelId) (s : State) (d : ChannelId) :
    (dueExpiryEvent c s).polls[d] = if d = c then s.polls[d].settled else s.polls[d] := by
  have key : (dueExpiryEvent c s).polls = upd s.polls c Poll.settled := by
    unfold dueExpiryEvent
    cases h : s.polls[c].countdown with
    | expiring =>
      exact upd_congr s.polls c (fun p => { p with due := true, countdown := .stopped }) Poll.settled
        (Poll.settled_of_expiring h).symm
    | running n => exact (upd_eq_self _ _ Poll.settled (by unfold Poll.settled; rw [h])).symm
    | stopped => exact (upd_eq_self _ _ Poll.settled (by unfold Poll.settled; rw [h])).symm
  rw [key]
  split
  · next hd => subst hd; exact get_upd_eq
  · next hd => exact get_upd_ne hd

/-- R157: the expiries left over from the tick before are taken, each in its own channel. -/
theorem dueExpiries_poll (s : State) (d : ChannelId) :
    (allChannels.foldl (fun s c => dueExpiryEvent c s) s).polls[d] = s.polls[d].settled := by
  have key : ∀ (xs : List ChannelId) (s : State),
      (xs.foldl (fun s c => dueExpiryEvent c s) s).polls[d] = if d ∈ xs then s.polls[d].settled else s.polls[d] := by
    intro xs
    induction xs with
    | nil => intro s; simp
    | cons x xs ih =>
      intro s
      rw [List.foldl_cons, ih, dueExpiryEvent_poll]
      by_cases hx : d = x
      · subst hx; simp [Poll.settled_settled]
      · simp [hx]
  rw [key, if_pos (mem_allChannels d)]

theorem openCapture_polls (t : TriggerId) (edge : Edge) (s : State) :
    (openCapture t edge s).polls = (requestRefresh s t).polls := by
  unfold openCapture
  rw [(finishCapture_frame _ t).2.2.2.2.2.1, State.modTrigger_polls]

/-- R92, R95: a confirmation asks for a refresh, or leaves the scheduler alone. -/
theorem confirmEvent_polls (t : TriggerId) (s : State) :
    (confirmEvent t s).polls = s.polls ∨ (confirmEvent t s).polls = (requestRefresh s t).polls := by
  unfold confirmEvent
  dsimp only
  split
  · split
    · rw [(attendAll_frame _).2.2.2.2.2.1]
      unfold qualifiedEdge
      split
      · exact .inr (openCapture_polls t _ _)
      · exact .inl rfl
    · exact .inl rfl
  · exact .inl rfl

/-- R95: a refresh asks for priority, and changes nothing else of a poll. -/
theorem requestRefresh_poll (s : State) (t : TriggerId) (c : ChannelId) :
    ∃ priority, (requestRefresh s t).polls[c] = { s.polls[c] with priority := priority } := by
  unfold requestRefresh
  simp only [Fin.getElem_fin, get_tab8]
  split
  · exact ⟨true, rfl⟩
  · exact ⟨s.polls[c].priority, rfl⟩

theorem confirmEvent_poll (t : TriggerId) (s : State) (c : ChannelId) :
    ∃ priority, (confirmEvent t s).polls[c] = { s.polls[c] with priority := priority } := by
  rcases confirmEvent_polls t s with h | h
  · exact ⟨s.polls[c].priority, congrArg (fun p : Vector Poll 8 => p[c]) h⟩
  · obtain ⟨priority, hp⟩ := requestRefresh_poll s t c
    exact ⟨priority, (congrArg (fun p : Vector Poll 8 => p[c]) h).trans hp⟩

theorem confirms_poll (xs : List TriggerId) (s : State) (c : ChannelId) :
    ∃ priority, (xs.foldl (fun s t => confirmEvent t s) s).polls[c] = { s.polls[c] with priority := priority } := by
  refine foldl_preserves (fun u : State => ∃ priority, u.polls[c] = { s.polls[c] with priority := priority })
    (fun s t => confirmEvent t s) (fun u t hu => ?_) xs s ⟨_, rfl⟩
  obtain ⟨before, hb⟩ := hu
  obtain ⟨after, ha⟩ := confirmEvent_poll t u c
  exact ⟨after, by rw [ha, hb]⟩

/-- R157: the expiries of the tick before are taken; after them a confirmation can only set a priority flag. -/
theorem settleTick_poll (s : State) (c : ChannelId) :
    ∃ priority, (settleTick s).polls[c] = { s.polls[c].settled with priority := priority } := by
  obtain ⟨priority, hp⟩ :=
    confirms_poll allTriggers (leaseExpiryEvent (allChannels.foldl (fun s c => dueExpiryEvent c s) s)) c
  have hl := (leaseExpiryEvent_frame (allChannels.foldl (fun s c => dueExpiryEvent c s) s)).2.2.2.2.2.1
  refine ⟨priority, ?_⟩
  have ht : (settleTick s).polls =
      (allTriggers.foldl (fun s t => confirmEvent t s)
        (leaseExpiryEvent (allChannels.foldl (fun s c => dueExpiryEvent c s) s))).polls := by
    unfold settleTick
    exact (pulseTicks_frame allLinks _).2.2.2.2.2.1
  simp only [ht, hp, hl, dueExpiries_poll]

theorem settleTick_lease_views (s : State) :
    (settleTick s).lease = (leaseExpiryEvent (allChannels.foldl (fun s c => dueExpiryEvent c s) s)).lease ∧
      (settleTick s).views = (leaseExpiryEvent (allChannels.foldl (fun s c => dueExpiryEvent c s) s)).views := by
  unfold settleTick
  dsimp only
  generalize leaseExpiryEvent (allChannels.foldl (fun s c => dueExpiryEvent c s) s) = u
  obtain ⟨-, -, -, -, -, -, -, hviews, -, -, -, hlease, -⟩ :=
    pulseTicks_frame allLinks (allTriggers.foldl (fun s t => confirmEvent t s) u)
  obtain ⟨-, -, -, -, -, -, hviews', hlease', -⟩ := confirms_frame allTriggers u
  exact ⟨hlease.trans hlease', hviews.trans hviews'⟩

/-- R121, R157: a lease expiry left over from the tick before is taken. -/
theorem settleTick_lease {l : LinkId} {s : State} (hc : s.lease.countdown = .expiring) (hh : s.lease.holder = some l) :
    (settleTick s).lease = { holder := none, countdown := .stopped } ∧ (settleTick s).views[l].leaseLost = true := by
  obtain ⟨-, -, -, -, -, -, -, -, -, -, -, hlease, -, -⟩ := dueExpiries_frame allChannels s
  obtain ⟨hl, hv⟩ := settleTick_lease_views s
  generalize allChannels.foldl (fun s c => dueExpiryEvent c s) s = u at hlease hl hv
  rw [leaseExpiryEvent_of_expiring (by rw [hlease]; exact hc), loseLease_of_held (by rw [hlease]; exact hh)] at hl hv
  refine ⟨hl, ?_⟩
  have hget := congrArg (fun w : Vector View 4 => w[l].leaseLost) hv
  exact hget.trans (congrArg View.leaseLost get_upd_eq)

theorem advance_tickCount (trg : BitVec 4) (s : State) : (advance trg s).tickCount = s.tickCount + 1 := rfl

theorem advance_lease (trg : BitVec 4) (s : State) :
    (advance trg s).lease = { s.lease with countdown := s.lease.countdown.tick } := rfl

/-- Settles O6: with nothing owed a tick is `advance` alone; and what was owed is settled before it. -/
theorem tickCountsEveryCountdownDown : Obligations.TickCountsEveryCountdownDown := by
  unfold Obligations.TickCountsEveryCountdownDown
  refine ⟨fun trg s hr ho => ⟨_, exec_tick_of_nothingOwed hr ho, rfl, fun c => ?poll, rfl, fun hs => ?stopped,
    fun n hn => ?running, fun h1 => ?last, advance_attention trg s, rfl⟩,
    fun trg s hr => ⟨_, exec_running (i := .tick trg) rfl hr, ?count, fun c hc => ?due, fun l hc hh => ?lease⟩⟩
  case poll =>
    rw [advance_poll]
    refine ⟨fun hs => ?_, fun n hn => ?_, fun h1 => ?_⟩
    · rw [hs, Countdown.tick, ← hs]
    · rw [hn, Countdown.tick_running]
    · rw [h1, Countdown.tick_last]
  case stopped => rw [advance_lease, hs]; rfl
  case running => rw [advance_lease, hn, Countdown.tick_running]
  case last => rw [advance_lease, h1, Countdown.tick_last]
  case count =>
    unfold tickEvent
    rw [advance_tickCount, (settleTick_frame s).2.1]
  case due =>
    obtain ⟨priority, hp⟩ := settleTick_poll s c
    unfold tickEvent
    rw [advance_poll, hp, Poll.settled_of_expiring hc]
    exact ⟨rfl, rfl⟩
  case lease =>
    obtain ⟨hfree, hlost⟩ := settleTick_lease hc hh
    unfold tickEvent
    simp only [advance_lease, advance_views, hfree]
    exact ⟨trivial, rfl, hlost⟩

/-- R90, R91: a sample, by the watch stage and the level that it finds; no confirmation waits. -/
theorem Trigger.sample_off {g : Trigger} {n : Nat} {level : Level} (h : g.watch = .off) : g.sample n level = g := by
  unfold Trigger.sample; rw [h]

theorem Trigger.sample_starting {g : Trigger} {n : Nat} {level : Level} (h : g.watch = .starting)
    (ho : g.confirmOwed = false) :
    g.sample n level = { g with watch := .watching, stable := level, run := 0 } := by
  cases g
  simp only at h ho
  subst h ho
  rfl

theorem Trigger.sample_same {g : Trigger} {n : Nat} {level : Level} (h : g.watch = .watching)
    (ho : g.confirmOwed = false) (hl : level = g.stable) : g.sample n level = { g with run := 0 } := by
  cases g
  simp only at h ho hl
  subst h ho hl
  exact if_pos rfl

theorem Trigger.sample_differs {g : Trigger} {n : Nat} {level : Level} (h : g.watch = .watching)
    (hl : level ≠ g.stable) :
    g.sample n level =
      { g with run := satInc 8 g.run, confirmOwed := decide (n + 1 ≤ satInc 8 g.run) } := by
  cases g
  simp only at h hl
  subst h
  exact if_neg hl

/-- Settles O7: the sample of `advance`, by the watch stage and the level that it finds. -/
theorem tickSamplesEveryTrigger : Obligations.TickSamplesEveryTrigger := by
  unfold Obligations.TickSamplesEveryTrigger
  intro trg s hr ho
  refine ⟨_, exec_tick_of_nothingOwed hr ho, fun i => ?_⟩
  obtain ⟨-, -, -, howed⟩ := ho
  rw [advance_trigger]
  exact ⟨fun hw => Trigger.sample_off hw, fun hw => Trigger.sample_starting hw (howed i),
    fun hw hl => Trigger.sample_same hw (howed i) hl, fun hw hl => Trigger.sample_differs hw hl⟩

/-! ## Attention -/

theorem attendAll_line (s : State) (v : LinkId) :
    (attendAll s).attention[v].line =
      .output (lineLevel s v (attentionCondition s v) (attendAll s).attention[v].timer) := by
  rw [attendAll_attention]; rfl

theorem attendAll_timer (s : State) (v : LinkId) :
    (attendAll s).attention[v].timer =
      timerAfter s.views[v].settings.attentionMode s.attention[v] (attentionCondition s v) := by
  rw [attendAll_attention]; rfl

/-- R68: the timer holds the line active in its two pulsing states. -/
theorem PulseTimer.active_eq (t : PulseTimer) : t.active = decide (t = .pulsing ∨ t = .pulsingOwed) := by
  cases t <;> rfl

/-- R68: a false-to-true change of the condition moves the timer. -/
theorem timerAfter_rise {a : Attention} {now : Bool} (h : a.condition = false) (hn : now = true) :
    timerAfter .pulse a now = a.timer.rise := by
  unfold timerAfter; rw [h, hn]; rfl

/-- R68: any other course of the condition leaves the timer. -/
theorem timerAfter_stay {a : Attention} {now : Bool} (h : a.condition = true ∨ now = false) :
    timerAfter .pulse a now = a.timer := by
  unfold timerAfter
  rw [if_neg]
  rintro hx
  simp only [Bool.and_eq_true, Bool.not_eq_true'] at hx
  rcases h with hc | hn
  · rw [hc] at hx; exact Bool.noConfusion hx.1
  · rw [hn] at hx; exact Bool.noConfusion hx.2

theorem lineLevel_of_enabled {s : State} {v : LinkId} {condition : Bool} {timer : PulseTimer}
    (h : linkEnabled s v = true) : lineLevel s v condition timer =
      polarityLevel s.views[v].settings.polarity (lineActive s.views[v].settings.attentionMode condition timer) :=
  if_pos h

theorem lineLevel_of_disabled {s : State} {v : LinkId} {condition : Bool} {timer : PulseTimer}
    (h : linkEnabled s v = false) : lineLevel s v condition timer = .high := by
  unfold lineLevel; rw [h]; rfl

theorem pulseTickEvent_of_owed {v : LinkId} {s : State} (h : s.attention[v].tickOwed = true) :
    pulseTickEvent v s = attendAll (s.modAttention v fun a => { a with timer := a.timer.tick, tickOwed := false }) := by
  unfold pulseTickEvent; rw [if_pos h]

/-- R68: only a timer that owes a pulse is active after its tick. -/
theorem PulseTimer.tick_active (t : PulseTimer) : t.tick.active = decide (t = .owed) := by
  cases t <;> rfl

/-- R68: the tick of a timer whose output is current, which evaluates attention and finds the condition unchanged. -/
theorem pulseTickEvent_attention {v : LinkId} {s : State} (hr : s.phase = .running) (h : attentionCurrent s)
    (ho : s.attention[v].tickOwed = true) (hm : s.views[v].settings.attentionMode = .pulse) :
    (pulseTickEvent v s).attention[v] =
      { s.attention[v] with
        timer := s.attention[v].timer.tick
        tickOwed := false
        line := .output (lineLevel s v s.attention[v].condition s.attention[v].timer.tick) } ∧
      ∀ u : LinkId, u ≠ v → (pulseTickEvent v s).attention[u] = s.attention[u] := by
  obtain ⟨hcond, -, -⟩ := h hr v
  rw [pulseTickEvent_of_owed ho]
  refine ⟨?_, fun u hu => ?_⟩
  · rw [attendAll_attention]
    unfold attendView
    dsimp only
    have hc : attentionCondition (s.modAttention v fun a => { a with timer := a.timer.tick, tickOwed := false }) v =
        s.attention[v].condition := hcond.symm
    rw [hc, State.modAttention_attention, get_upd_eq, State.modAttention_views, hm,
      timerAfter_stay (a := { s.attention[v] with timer := s.attention[v].timer.tick, tickOwed := false })
        (Bool.eq_false_or_eq_true _)]
    rfl
  · have hcur := congrArg (fun t : State => t.attention[u]) (attendAll_current hr h)
    simp only [attendAll_attention] at hcur ⊢
    rw [← hcur]
    unfold attendView
    dsimp only
    rw [State.modAttention_attention, get_upd_ne hu]
    rfl

theorem pulseTickEvent_eq {v : LinkId} {s : State} :
    pulseTickEvent v s = { s with attention := (pulseTickEvent v s).attention } := by
  unfold pulseTickEvent; split <;> rfl

/-- Settles O9: the equations of `attendAll`, and the tick of one timer. -/
theorem attentionFollowsTheCondition : Obligations.AttentionFollowsTheCondition := by
  unfold Obligations.AttentionFollowsTheCondition
  refine ⟨fun v s => ⟨?_, fun hm => ⟨fun hc hn => ?_, fun hs => ?_, fun he => ?_⟩, fun hm => ?_, fun hm he => ?_,
    fun hm he => ?_, fun he => ?_, rfl⟩, fun v s hr hcur ho hm => ?_⟩
  · rw [attendAll_attention]; rfl
  · rw [attendAll_timer, hm, timerAfter_rise hc hn]
    exact ⟨fun h => by rw [h]; rfl, fun h => by rw [h]; rfl, fun h => by rw [h]; rfl, fun h => by rw [h]; rfl⟩
  · rw [attendAll_timer, hm, timerAfter_stay hs]
  · rw [attendAll_line, lineLevel_of_enabled he, hm, lineActive, PulseTimer.active_eq]
  · rw [attendAll_timer, timerAfter_of_not_pulse hm]
  · rw [attendAll_line, lineLevel_of_enabled he, hm]; rfl
  · rw [attendAll_line, lineLevel_of_enabled he, hm]; rfl
  · rw [attendAll_line, lineLevel_of_disabled he]
  · obtain ⟨hv, hother⟩ := pulseTickEvent_attention hr hcur ho hm
    refine ⟨_, exec_running (i := .pulseTimerTick v) rfl hr, ?_⟩
    rw [hv]
    refine ⟨fun h => ?_, fun h => ?_, fun h => ?_, fun h => ?_, rfl, rfl, fun he => ?_, hother, pulseTickEvent_eq⟩
    · rw [h]; rfl
    · rw [h]; rfl
    · rw [h]; rfl
    · rw [h]; rfl
    · dsimp only
      rw [lineLevel_of_enabled he, hm, lineActive, PulseTimer.tick_active]

end Sys2Proof.Machine

/-! PROOFS. O5: strap sampling (R18, R65, R70, R106, R136, R156, R159, R160). -/

namespace Sys2Proof.Machine

/-- The state that strap sampling finds: the reset state, released. -/
def releasedState (p : List Instr) : State := { State.reset with phase := .released, pending := p }

theorem exec_strapSampling_released (atn ld : BitVec 4) (p : List Instr) :
    exec (.strapSampling atn ld) (releasedState p) =
      .next (sampleStraps (strapsOf atn) ld { releasedState p with tickCount := 1 }) := rfl

section
variable (st : Straps) (ld : BitVec 4) (s : State)

theorem sampleStraps_channelSettings (c : ChannelId) :
    (sampleStraps st ld s).settings.channels[c] = firstChannelSettings st s.settings.channels[c] :=
  get_tab8 (fun c => firstChannelSettings st s.settings.channels[c]) c.1 c.2

theorem sampleStraps_channel (c : ChannelId) : (sampleStraps st ld s).channels[c] = firstChannel st s.channels[c] :=
  get_tab8 (fun c => firstChannel st s.channels[c]) c.1 c.2

theorem sampleStraps_poll (c : ChannelId) : (sampleStraps st ld s).polls[c] = firstPoll st s.polls[c] :=
  get_tab8 (fun c => firstPoll st s.polls[c]) c.1 c.2

theorem sampleStraps_view (v : LinkId) : (sampleStraps st ld s).views[v] = firstView st v s.views[v] :=
  get_tab4 (fun v => firstView st v s.views[v]) v.1 v.2

theorem sampleStraps_link (l : LinkId) :
    (sampleStraps st ld s).links[l] = firstLink st l (ld.getLsbD l.val) s.links[l] :=
  get_tab4 (fun l => firstLink st l (ld.getLsbD l.val) s.links[l]) l.1 l.2

end

theorem firstChannelSettings_reset (st : Straps) :
    firstChannelSettings st ChannelSettings.reset = { ChannelSettings.reset with enable := st.autostart } := by
  unfold firstChannelSettings
  cases st.autostart <;> rfl

theorem firstChannel_reset (st : Straps) :
    firstChannel st Channel.reset = { Channel.reset with state := if st.autostart then .identify else .off } := by
  unfold firstChannel
  cases st.autostart <;> rfl

theorem firstPoll_reset (st : Straps) : firstPoll st Poll.reset = { Poll.reset with due := st.autostart } := by
  unfold firstPoll
  cases st.autostart <;> rfl

/-- R65: the account of a channel in a first view. -/
theorem firstView_account (st : Straps) (v : LinkId) (c : ChannelId) :
    (firstView st v View.reset).accounts[c] = if autoSubscribes st v then some Account.created else none := by
  unfold firstView
  cases autoSubscribes st v <;> exact get_replicate _ c

theorem firstPlacement_fourLinks (v : LinkId) : firstPlacement false v = (4 * v.val, 4) := rfl

theorem firstPlacement_enabled {v : LinkId} (h : v.val < 2) : firstPlacement true v = (8 * v.val, 8) := if_pos h

theorem firstPlacement_disabled {v : LinkId} (h : 2 ≤ v.val) : firstPlacement true v = (0, 0) :=
  if_neg (Nat.not_lt.mpr h)

/-- R66: accounts as they are created give no motion to attend to. -/
theorem motionSource_firstView (st : Straps) (v : LinkId) : motionSource (firstView st v View.reset) = false := by
  unfold motionSource
  rw [List.any_eq_false]
  intro c _
  have hcases : (firstView st v View.reset).account? c = some Account.created ∨
      (firstView st v View.reset).account? c = none := by
    unfold View.account?
    split
    · rw [firstView_account]
      split
      · exact .inl rfl
      · exact .inr rfl
    · exact .inr rfl
  rcases hcases with h | h <;> rw [h] <;> decide

/-- R66: the reset sources are MOTION alone, so the condition is false at the end of strap sampling. -/
theorem conditionOf_firstView (channels : Vector Channel 8) (st : Straps) (v : LinkId) (r : Ring) :
    conditionOf channels (firstView st v View.reset) r = false := by
  unfold conditionOf
  rw [motionSource_firstView]
  have hsources : (firstView st v View.reset).settings.sources = 1 := rfl
  rw [hsources]
  simp

theorem firstView_attentionMode (st : Straps) (v : LinkId) :
    (firstView st v View.reset).settings.attentionMode = if autoSubscribes st v then .level else .off := rfl

/-- R70: after strap sampling no line is active and no timer runs. -/
theorem sampleStraps_attention {st : Straps} {ld : BitVec 4} {s : State} {v : LinkId} (h : s.views[v] = View.reset) :
    (sampleStraps st ld s).attention[v].line = .output .high ∧ (sampleStraps st ld s).attention[v].timer = .quiet := by
  have hview : (sampleStraps st ld s).views[v] = firstView st v View.reset := by rw [sampleStraps_view, h]
  have hmode : (firstView st v View.reset).settings.attentionMode ≠ .pulse ∧
      ∀ timer, lineActive (firstView st v View.reset).settings.attentionMode false timer = false := by
    rw [firstView_attentionMode]
    cases autoSubscribes st v <;> exact ⟨by decide, fun _ => rfl⟩
  obtain ⟨u, hu, hviews⟩ : ∃ u : State, sampleStraps st ld s = attendAll u ∧ u.views[v] = firstView st v View.reset :=
    ⟨_, rfl, hview⟩
  have hcond : attentionCondition u v = false := by
    unfold attentionCondition
    rw [hviews, conditionOf_firstView]
  rw [hu, attendAll_line, attendAll_timer, hcond, hviews]
  refine ⟨?_, timerAfter_of_not_pulse hmode.1⟩
  unfold lineLevel
  rw [hviews, hmode.2]
  split <;> rfl

/-- Settles O5: the first values of strap sampling, field by field. -/
theorem strapSamplingGivesFirstValues : Obligations.StrapSamplingGivesFirstValues := by
  unfold Obligations.StrapSamplingGivesFirstValues
  intro atn ld p
  have hviews (v : LinkId) : (releasedState p).views[v] = View.reset := get_replicate View.reset v
  refine ⟨_, exec_strapSampling_released atn ld p, rfl, rfl, rfl, rfl, rfl, rfl, rfl, rfl, fun c => ⟨?settings, ?channel,
    ?poll⟩, fun v => ?view, fun i => get_replicate Trigger.reset i⟩
  case settings =>
    rw [sampleStraps_channelSettings]
    exact (congrArg _ (get_replicate ChannelSettings.reset c)).trans (firstChannelSettings_reset _)
  case channel =>
    rw [sampleStraps_channel]
    exact (congrArg _ (get_replicate Channel.reset c)).trans (firstChannel_reset _)
  case poll =>
    rw [sampleStraps_poll]
    exact (congrArg _ (get_replicate Poll.reset c)).trans (firstPoll_reset _)
  case view =>
    obtain ⟨hline, htimer⟩ := sampleStraps_attention (st := strapsOf atn) (ld := ld)
      (s := { releasedState p with tickCount := 1 }) (v := v) (hviews v)
    have hview : (sampleStraps (strapsOf atn) ld { releasedState p with tickCount := 1 }).views[v] =
        firstView (strapsOf atn) v View.reset := (sampleStraps_view _ _ _ v).trans (congrArg _ (hviews v))
    have hlink : (sampleStraps (strapsOf atn) ld { releasedState p with tickCount := 1 }).links[v] =
        firstLink (strapsOf atn) v (ld.getLsbD v.val) Link.reset :=
      (sampleStraps_link _ _ _ v).trans (congrArg _ (get_replicate Link.reset v))
    rw [hview, hlink]
    refine ⟨hline, htimer, ⟨_, _, rfl, fun h => ?four, fun h hv => ?enabled, fun h hv => ?disabled⟩,
      firstView_account _ v, rfl, rfl, rfl, get_replicate Ring.reset v, ?link⟩
    case four =>
      rw [show (strapsOf atn).twoLinks = false from h, firstPlacement_fourLinks]
      exact ⟨rfl, rfl⟩
    case enabled =>
      rw [show (strapsOf atn).twoLinks = true from h, firstPlacement_enabled hv]
      exact ⟨rfl, rfl⟩
    case disabled =>
      rw [show (strapsOf atn).twoLinks = true from h, firstPlacement_disabled hv]
      exact ⟨rfl, rfl⟩
    case link =>
      unfold firstLink
      show (if (ld.getLsbD v.val || (atn.getLsbD 2 && decide (2 ≤ v.val))) = true then _ else _) = _
      split <;> rfl

end Sys2Proof.Machine

/-! PROOFS. O3: the states in which a command has no event to run, and changes nothing. -/

namespace Sys2Proof.Machine

theorem exec_fixed {i : Instr} {s : State} (h : effect i s = s) : exec i s = .next s := by
  rw [exec_eq_effect, h]

theorem whenRunning_fixed {f : State → State} {s : State} (h : s.phase = .running → f s = s) : whenRunning f s = s := by
  unfold whenRunning
  split
  · next hr => exact h hr
  · rfl

theorem whenOperating_fixed {l : LinkId} {f : State → State} {s : State} (h : operating s l = true → f s = s) :
    whenOperating l f s = s := by
  unfold whenOperating
  split
  · next ho => exact h ho
  · rfl

/-! ## Commands before strap sampling, and of a disabled link -/

/-- R156: a command of a link takes place only while that link works. -/
theorem effect_of_linkOf {i : Instr} {l : LinkId} (h : linkOf i = some l) :
    ∃ f, ∀ s, effect i s = whenOperating l f s := by
  cases i with
  | reset => cases h
  | resetRelease => cases h
  | strapSampling atn ld => cases h
  | tick trg => cases h
  | dueCountdownExpiry c => cases h
  | leaseExpiry => cases h
  | pulseTimerTick v => cases h
  | triggerEdgeQualified t => cases h
  | grant => cases h
  | exchangeCompletion sdi => cases h
  | _ =>
    cases h
    exact ⟨_, fun _ => rfl⟩

/-- R158, R160: a command of no link, but for the three of start-up, takes place only after strap sampling. -/
theorem effect_of_linkOf_none {i : Instr} (h : linkOf i = none) (h1 : i ≠ .reset) (h2 : i ≠ .resetRelease)
    (h3 : ∀ atn ld, i ≠ .strapSampling atn ld) : ∃ f, ∀ s, effect i s = whenRunning f s := by
  cases i with
  | reset => exact absurd rfl h1
  | resetRelease => exact absurd rfl h2
  | strapSampling atn ld => exact absurd rfl (h3 atn ld)
  | tick trg => exact ⟨_, fun _ => rfl⟩
  | dueCountdownExpiry c => exact ⟨_, fun _ => rfl⟩
  | leaseExpiry => exact ⟨_, fun _ => rfl⟩
  | pulseTimerTick v => exact ⟨_, fun _ => rfl⟩
  | triggerEdgeQualified t => exact ⟨_, fun _ => rfl⟩
  | grant => exact ⟨_, fun _ => rfl⟩
  | exchangeCompletion sdi => exact ⟨_, fun _ => rfl⟩
  | _ => cases h

theorem exec_fixed_of_not_operating {i : Instr} {l : LinkId} {s : State} (h : linkOf i = some l)
    (ho : operating s l = false) : exec i s = .next s := by
  obtain ⟨f, hf⟩ := effect_of_linkOf h
  exact exec_fixed ((hf s).trans (whenOperating_fixed fun ht => absurd (ht.symm.trans ho) (by decide)))

theorem operating_of_not_running {s : State} {l : LinkId} (h : s.phase ≠ .running) : operating s l = false := by
  unfold operating; rw [decide_eq_false h]; rfl

theorem operating_of_disabled {s : State} {l : LinkId} (h : linkEnabled s l = false) : operating s l = false := by
  unfold operating; rw [h, Bool.and_false]

theorem exec_fixed_of_not_running {i : Instr} {s : State} (hp : s.phase ≠ .running) (h1 : i ≠ .reset)
    (h2 : i ≠ .resetRelease) (h3 : ∀ atn ld, i ≠ .strapSampling atn ld) : exec i s = .next s := by
  cases hl : linkOf i with
  | some l => exact exec_fixed_of_not_operating hl (operating_of_not_running hp)
  | none =>
    obtain ⟨f, hf⟩ := effect_of_linkOf_none hl h1 h2 h3
    exact exec_fixed ((hf s).trans (whenRunning_fixed fun hr => absurd hr hp))

theorem releaseEvent_fixed {s : State} (h : s.phase ≠ .inReset) : releaseEvent s = s := by
  unfold releaseEvent
  split
  · next hp => exact absurd hp h
  · rfl
  · rfl

theorem strapEvent_fixed {atn ld : BitVec 4} {s : State} (h : s.phase ≠ .released) : strapEvent atn ld s = s := by
  unfold strapEvent
  split
  · next hp => exact absurd hp h
  · rfl
  · rfl

/-! ## The bus -/

theorem searchFrom_none {p : ChannelId} {member : ChannelId → Bool} (h : ∀ c, member c = false) :
    searchFrom p member = none := by
  unfold searchFrom
  rw [List.find?_eq_none]
  intro c _
  rw [h c]
  decide

/-- R33: with the bus busy, or both sets empty, there is nothing to grant. -/
theorem grantEvent_fixed {s : State} (h : s.bus.exchange.isSome = true ∨
    ∀ c : ChannelId, s.polls[c].priority = false ∧ s.polls[c].due = false) : grantEvent s = s := by
  unfold grantEvent
  split
  · next c hbus hchoice =>
    rcases h with hbusy | hflags
    · rw [hbus] at hbusy; cases hbusy
    · have hnone : arbiterChoice s = none := by
        unfold arbiterChoice
        split
        · exact searchFrom_none fun c => (hflags c).1
        · exact searchFrom_none fun c => (hflags c).2
      rw [hnone] at hchoice; cases hchoice
  · rfl

theorem exchangeEvent_fixed {sdi : List (Samples 8)} {s : State} (h : s.bus.exchange = none) :
    exchangeEvent sdi s = s := by
  unfold exchangeEvent; rw [h]

theorem exchangeEvent_inFlight {sdi : List (Samples 8)} {s : State} {e e' : Exchange} (h : s.bus.exchange = some e)
    (hc : clockBytes s.settings.channels[e.channel].expectedId e (bytesOnSdi sdi) = .inFlight e') :
    exchangeEvent sdi s = { s with bus := { s.bus with exchange := some e' } } := by
  unfold exchangeEvent; rw [h]; simp only [hc]

/-! ## The links -/

theorem modLink_fixed {s : State} {l : LinkId} {f : Link → Link} (h : f s.links[l] = s.links[l]) : s.modLink l f = s := by
  unfold State.modLink
  rw [upd_eq_self _ _ _ h]

theorem guardEndEvent_fixed {l : LinkId} {s : State} (h : s.links[l].tx ≠ .guard) : guardEndEvent l s = s := by
  unfold guardEndEvent
  split
  · next hg => exact absurd hg h
  · rfl
  · rfl

theorem deliveryEvent_fixed {l : LinkId} {s : State} (h : s.links[l].tx = .idle ∨ s.links[l].tx = .guard) :
    deliveryEvent l s = s := by
  unfold deliveryEvent
  rcases h with h | h <;> rw [h]

theorem contentionEvent_fixed {l : LinkId} {s : State} (h : s.links[l].owner = .client) : contentionEvent l s = s := by
  unfold contentionEvent; rw [h]

theorem breakEvent_fixed {l : LinkId} {order : BreakOrder} {s : State} (h : s.links[l].receiver = .awaitMark true) :
    breakEvent l order s = s := by
  unfold breakEvent; rw [h]

theorem fourthByte_fixed {l : LinkId} {check : Byte} {s : State}
    (h : s.links[l].owner = .am48 ∨ ∀ x y z, s.links[l].receiver ≠ .header [x, y, z]) : fourthByte l check s = s := by
  unfold fourthByte
  split
  · next x y z howner hrec =>
    rcases h with ham | hnot
    · rw [howner] at ham; cases ham
    · exact absurd hrec (hnot x y z)
  · rfl

theorem lastCrcByte_fixed {l : LinkId} {crcLow : Byte} {s : State}
    (h : s.links[l].owner = .am48 ∨ ∀ kind payload hi skip, s.links[l].receiver ≠ .footer kind payload (some hi) skip) :
    lastCrcByte l crcLow s = s := by
  unfold lastCrcByte
  split
  · next kind payload hi skip howner hrec =>
    rcases h with ham | hnot
    · rw [howner] at ham; cases ham
    · exact absurd hrec (hnot kind payload hi skip)
  · rfl

theorem Link.timeout_fixed {k : Link} (h : k.receiver = .idle ∨ k.receiver = .discard ∨
    ∃ taken, k.receiver = .awaitMark taken) : k.timeout = k := by
  unfold Link.timeout
  rcases h with h | h | ⟨taken, h⟩ <;> rw [h]

theorem Link.endDiscard_fixed {k : Link} (h : k.receiver ≠ .discard) : k.endDiscard = k := by
  unfold Link.endDiscard
  split
  · next hd => exact absurd hd h
  all_goals rfl

theorem Link.markReturned_fixed {k : Link} (h : ∀ taken, k.receiver ≠ .awaitMark taken) : k.markReturned = k := by
  unfold Link.markReturned
  split
  · next taken ht => exact absurd ht (h taken)
  all_goals rfl

/-! ## Requests and accepted writes -/

/-- R147: a composition that does not find the request it names does not take place. -/
theorem composeIf_fixed {l : LinkId} {named : State → Request → Bool} {s : State}
    (h : ∀ s1 r rest, compositionState l s = some s1 → s1.links[l].queue = r :: rest → named s1 r = false) :
    composeIf l named s = s := by
  unfold composeIf
  split
  · rfl
  · next s1 hs1 =>
    split
    · rfl
    · next r rest hq => rw [if_neg]; rw [h s1 r rest hs1 hq]; decide

theorem effect_commandOf (l : LinkId) (r : Request) (s : State) :
    effect (commandOf l r) s = whenOperating l (composeIf l fun _ x => decide (x = r)) s := by
  cases r <;> rfl

theorem exec_commandOf_fixed {l : LinkId} {r : Request} {s : State}
    (h : ∀ s1 rest, compositionState l s = some s1 → s1.links[l].queue ≠ r :: rest) :
    exec (commandOf l r) s = .next s := by
  refine exec_fixed ((effect_commandOf l r s).trans (whenOperating_fixed fun _ => composeIf_fixed ?_))
  intro s1 x rest hs1 hq
  exact decide_eq_false fun hx => h s1 rest hs1 (hx ▸ hq)

theorem acceptedWrite_eq_true {l : LinkId} {change : State → AcceptedWrite → Bool} {s : State} {r : Request} :
    acceptedWrite l change s r = true ↔
      ∃ payload w, r = .settingWrite payload ∧ checkWrite s l payload = .ok w ∧ change s w = true := by
  constructor
  · intro h
    cases r with
    | settingWrite payload =>
      unfold acceptedWrite at h
      dsimp only at h
      split at h
      · next w hw => exact ⟨payload, w, rfl, hw, h⟩
      · cases h
    | _ => cases h
  · rintro ⟨payload, w, rfl, hw, hchange⟩
    unfold acceptedWrite
    simp only [hw, hchange]

/-- R133: a command that names an accepted write by what it changes does nothing where no such write is at the head. -/
theorem exec_write_fixed {i : Instr} {l : LinkId} {change : State → AcceptedWrite → Bool} {s : State}
    (hi : effect i s = whenOperating l (composeIf l (acceptedWrite l change)) s)
    (h : ∀ s1 w, writeAtHead l s s1 w → change s1 w = false) : exec i s = .next s := by
  refine exec_fixed (hi.trans (whenOperating_fixed fun ho => composeIf_fixed fun s1 r rest hs1 hq => ?_))
  rw [Bool.eq_false_iff]
  intro hnamed
  obtain ⟨payload, w, rfl, hw, hchange⟩ := acceptedWrite_eq_true.mp hnamed
  rw [h s1 w ⟨payload, rest, ⟨ho, hs1, hq⟩, hw⟩] at hchange
  cases hchange

section
variable {s : State} {w : AcceptedWrite} {l : LinkId}

theorem enablesChannel_eq {c : ChannelId} : enablesChannel c s w = true ↔
    s.settings.channels[c].enable = false ∧ w.left.shared.channels[c].enable = true := by
  simp [enablesChannel]

theorem disablesChannel_eq {c : ChannelId} : disablesChannel c s w = true ↔
    s.settings.channels[c].enable = true ∧ w.left.shared.channels[c].enable = false := by
  simp [disablesChannel]

theorem setsForcedTier_eq {c : ChannelId} {tier : Tier} : setsForcedTier c tier s w = true ↔
    Setting.channel c .forcedTier ∈ w.run ∧ w.left.shared.channels[c].forcedTier = some tier := by
  simp [setsForcedTier, wrote]

theorem releasesForcedTier_eq {c : ChannelId} : releasesForcedTier c s w = true ↔
    Setting.channel c .forcedTier ∈ w.run ∧ s.settings.channels[c].forcedTier ≠ none ∧
      w.left.shared.channels[c].forcedTier = none := by
  simp [releasesForcedTier, wrote, and_assoc, Option.isSome_iff_ne_none]

theorem enablesTrigger_eq {t : TriggerId} : enablesTrigger t s w = true ↔
    s.settings.triggers[t].enable = false ∧ w.left.shared.triggers[t].enable = true := by
  simp [enablesTrigger]

theorem disablesTrigger_eq {t : TriggerId} : disablesTrigger t s w = true ↔
    s.settings.triggers[t].enable = true ∧ w.left.shared.triggers[t].enable = false := by
  simp [disablesTrigger]

theorem changesMask_eq {mask : Byte} : changesMask l mask s w = true ↔
    s.views[l].settings.mask ≠ mask ∧ w.left.own.mask = mask := by
  simp [changesMask]

theorem placesRing_eq {base length : Nat} : placesRing base length s w = true ↔
    (Setting.own .ringBase ∈ w.run ∨ Setting.own .ringLength ∈ w.run) ∧ w.left.own.ringBase = base ∧
      w.left.own.ringLength = length := by
  simp [placesRing, touchesRing_iff, and_assoc]

theorem writesAttention_eq {mode : AttentionMode} {polarity : Polarity} {sources : BitVec 4} :
    writesAttention mode polarity sources s w = true ↔
    (Setting.own .attentionMode ∈ w.run ∨ Setting.own .polarity ∈ w.run ∨ Setting.own .sources ∈ w.run) ∧
      w.left.own.attentionMode = mode ∧ w.left.own.polarity = polarity ∧ w.left.own.sources = sources := by
  simp [writesAttention, wrote, and_assoc, or_assoc]

end

/-- Settles O3: each command, in a state that has no event for it. -/
theorem eventsThatCannotTakePlaceChangeNothing : Obligations.EventsThatCannotTakePlaceChangeNothing := by
  unfold Obligations.EventsThatCannotTakePlaceChangeNothing
  refine ⟨?notRunning, ?release, ?straps, ?disabled, ?due, ?lease, ?pulse, ?confirm, ?grant, ?noExchange, ?inFlight,
    ?guard, ?delivery, ?contention, ?lineBreak, ?header, ?longFrame, ?timeout, ?discard, ?mark, ?request, ?enable, ?disable,
    ?setTier, ?releaseTier, ?startTrigger, ?stopTrigger, ?mask, ?ring, ?attention⟩
  case notRunning => exact fun i s hp h1 h2 h3 => exec_fixed_of_not_running hp h1 h2 h3
  case release => exact fun s h => exec_fixed (i := .resetRelease) (releaseEvent_fixed h)
  case straps => exact fun atn ld s h => exec_fixed (i := .strapSampling atn ld) (strapEvent_fixed h)
  case disabled => exact fun i l s hl h => exec_fixed_of_not_operating hl (operating_of_disabled h)
  case due =>
    exact fun c s h => exec_fixed (i := .dueCountdownExpiry c)
      (whenRunning_fixed fun _ => dueExpiryEvent_of_not_expiring h)
  case lease =>
    exact fun s h => exec_fixed (i := .leaseExpiry) (whenRunning_fixed fun _ => leaseExpiryEvent_of_not_expiring h)
  case pulse =>
    exact fun v s h => exec_fixed (i := .pulseTimerTick v) (whenRunning_fixed fun _ => pulseTickEvent_of_not_owed h)
  case confirm =>
    exact fun t s h => exec_fixed (i := .triggerEdgeQualified t) (whenRunning_fixed fun _ => confirmEvent_of_not_owed h)
  case grant => exact fun s h => exec_fixed (i := .grant) (whenRunning_fixed fun _ => grantEvent_fixed h)
  case noExchange =>
    exact fun sdi s h => exec_fixed (i := .exchangeCompletion sdi) (whenRunning_fixed fun _ => exchangeEvent_fixed h)
  case inFlight =>
    intro sdi s e e' hr he hc
    rw [exec_running (i := .exchangeCompletion sdi) rfl hr, exchangeEvent_inFlight he hc]
  case guard =>
    exact fun l s h => exec_fixed (i := .guardEnd l) (whenOperating_fixed fun _ => guardEndEvent_fixed h)
  case delivery =>
    exact fun l s h => exec_fixed (i := .replyDelivery l) (whenOperating_fixed fun _ => deliveryEvent_fixed h)
  case contention =>
    exact fun l s h => exec_fixed (i := .contention l) (whenOperating_fixed fun _ => contentionEvent_fixed h)
  case lineBreak =>
    exact fun l order s h => exec_fixed (i := .lineBreak ⟨l, order⟩) (whenOperating_fixed fun _ => breakEvent_fixed h)
  case header =>
    exact fun l check s h => exec_fixed (i := .frameHeaderReceived l check)
      (whenOperating_fixed fun _ => fourthByte_fixed h)
  case longFrame =>
    exact fun l crcLow s h => exec_fixed (i := .longFrameReceived l crcLow)
      (whenOperating_fixed fun _ => lastCrcByte_fixed h)
  case timeout =>
    exact fun l s h => exec_fixed (i := .frameTimeout l)
      (whenOperating_fixed (f := fun s => s.modLink l Link.timeout) fun _ => modLink_fixed (Link.timeout_fixed h))
  case discard =>
    exact fun l s h => exec_fixed (i := .discardEnd l)
      (whenOperating_fixed (f := fun s => s.modLink l Link.endDiscard) fun _ => modLink_fixed (Link.endDiscard_fixed h))
  case mark =>
    exact fun l s h => exec_fixed (i := .returnToMark l)
      (whenOperating_fixed (f := fun s => s.modLink l Link.markReturned) fun _ => modLink_fixed (Link.markReturned_fixed h))
  case request => exact fun l r s h => exec_commandOf_fixed h
  case enable =>
    exact fun l c s h => exec_write_fixed (i := .channelEnable l c) rfl fun s1 w hw =>
      Bool.eq_false_iff.mpr fun hc => h s1 w hw (enablesChannel_eq.mp hc)
  case disable =>
    exact fun l c s h => exec_write_fixed (i := .channelDisable l c) rfl fun s1 w hw =>
      Bool.eq_false_iff.mpr fun hc => h s1 w hw (disablesChannel_eq.mp hc)
  case setTier =>
    exact fun l c tier s h => exec_write_fixed (i := .forcedTierSet l c tier) rfl fun s1 w hw =>
      Bool.eq_false_iff.mpr fun hc => h s1 w hw (setsForcedTier_eq.mp hc)
  case releaseTier =>
    exact fun l c s h => exec_write_fixed (i := .forcedTierRelease l c) rfl fun s1 w hw =>
      Bool.eq_false_iff.mpr fun hc => h s1 w hw (releasesForcedTier_eq.mp hc).2
  case startTrigger =>
    exact fun l t s h => exec_write_fixed (i := .triggerEnable l t) rfl fun s1 w hw =>
      Bool.eq_false_iff.mpr fun hc => h s1 w hw (enablesTrigger_eq.mp hc)
  case stopTrigger =>
    exact fun l t s h => exec_write_fixed (i := .triggerDisable l t) rfl fun s1 w hw =>
      Bool.eq_false_iff.mpr fun hc => h s1 w hw (disablesTrigger_eq.mp hc)
  case mask =>
    exact fun l mask s h => exec_write_fixed (i := .subscriptionChange l mask) rfl fun s1 w hw =>
      Bool.eq_false_iff.mpr fun hc => h s1 w hw (changesMask_eq.mp hc)
  case ring =>
    exact fun l base length s h => exec_write_fixed (i := .ringPlacement l base length) rfl fun s1 w hw =>
      Bool.eq_false_iff.mpr fun hc => h s1 w hw (placesRing_eq.mp hc)
  case attention =>
    exact fun l mode polarity sources s h => exec_write_fixed (i := .attentionSettingsWrite l mode polarity sources) rfl
      fun s1 w hw => Bool.eq_false_iff.mpr fun hc => h s1 w hw (writesAttention_eq.mp hc)

end Sys2Proof.Machine

/-! PROOFS. O10 to O12: confirmed changes and what a qualified edge opens (R91 to R95, R101, R102, R112). -/

namespace Sys2Proof.Machine

/-! ## A confirmed change -/

/-- R91: the state after a confirmed change of trigger `t`, before R92 looks at it. -/
def confirmed (t : TriggerId) (s : State) : State :=
  s.modTrigger t fun g => { g with stable := g.stable.flip, run := 0, confirmOwed := false }

theorem confirmEvent_of_no_edge {t : TriggerId} {s : State} (ho : s.triggers[t].confirmOwed = true)
    (hq : qualifies s.settings.triggers[t].edge (changeFrom s.triggers[t].stable) = false) :
    confirmEvent t s = confirmed t s := by
  unfold confirmEvent
  dsimp only
  rw [if_pos ho, if_neg (by rw [hq]; decide)]
  rfl

theorem confirmEvent_of_edge {t : TriggerId} {s : State} (ho : s.triggers[t].confirmOwed = true)
    (hq : qualifies s.settings.triggers[t].edge (changeFrom s.triggers[t].stable) = true) :
    confirmEvent t s = attendAll (qualifiedEdge t (changeFrom s.triggers[t].stable) (confirmed t s)) := by
  unfold confirmEvent
  dsimp only
  rw [if_pos ho, if_pos hq]
  rfl

theorem confirmed_capture (t : TriggerId) (s : State) : (confirmed t s).triggers[t].capture = s.triggers[t].capture := by
  unfold confirmed
  rw [State.modTrigger_triggers, get_upd_eq]

theorem qualifiedEdge_of_capture {t : TriggerId} {edge : Edge} {cap : Capture} {s : State}
    (h : s.triggers[t].capture = some cap) :
    qualifiedEdge t edge s = s.modTrigger t fun g => { g with capture := some { cap with overlap := true } } := by
  unfold qualifiedEdge; rw [h]

theorem qualifiedEdge_of_no_capture {t : TriggerId} {edge : Edge} {s : State} (h : s.triggers[t].capture = none) :
    qualifiedEdge t edge s = openCapture t edge s := by
  unfold qualifiedEdge; rw [h]

/-- Settles O10: the two confirmed changes that open no capture. -/
theorem confirmedChangesThatOpenNoCapture : Obligations.ConfirmedChangesThatOpenNoCapture := by
  unfold Obligations.ConfirmedChangesThatOpenNoCapture
  refine fun i s hr ho => ⟨fun hq => ?_, fun hcur hq cap hcap => ?_⟩
  · rw [exec_running (i := .triggerEdgeQualified i) rfl hr, confirmEvent_of_no_edge ho hq]
    rfl
  · rw [exec_running (i := .triggerEdgeQualified i) rfl hr, confirmEvent_of_edge ho hq,
      qualifiedEdge_of_capture ((confirmed_capture i s).trans hcap)]
    have hmarked : attentionCurrent ((confirmed i s).modTrigger i fun g =>
        { g with capture := some { cap with overlap := true } }) :=
      attentionCurrent_congr_fields (s := s) rfl rfl rfl rfl rfl rfl hcur
    rw [attendAll_current (by exact hr) hmarked]
    unfold confirmed State.modTrigger
    rw [upd_upd]

/-! ## Entries at the edge -/

theorem requestRefresh_fixed {s : State} {t : TriggerId} (h : s.settings.triggers[t].mode = .instant ∨
    ∀ c : ChannelId, s.settings.triggers[t].mask.getLsbD c.val = true → s.channels[c].state ≠ .active) :
    requestRefresh s t = s := by
  unfold requestRefresh
  congr 1
  refine vector_ext fun c => ?_
  simp only [Fin.getElem_fin, get_tab8]
  rw [if_neg]
  rintro ⟨hmode, hmask, hactive⟩
  rcases h with hinstant | hnone
  · exact absurd (hinstant.symm.trans hmode) (by decide)
  · exact hnone c hmask hactive

/-- R94: an entry that takes its positions at the edge. -/
theorem stageAtEdge_filled {mode : CaptureMode} {ch : Channel} (h : mode = .instant ∨ ch.state ≠ .active) :
    stageAtEdge mode ch =
      .filled (if ch.state = .active then .current else .stale) ch.absoluteAlong ch.absoluteAcross := by
  unfold stageAtEdge
  cases hs : ch.state with
  | active =>
    rcases h with hm | hn
    · rw [hm]; rfl
    · exact absurd hs hn
  | off => rfl
  | identify => rfl
  | faulted => rfl

/-- R95: an entry of a REFRESH capture. -/
theorem stageAtEdge_refresh (ch : Channel) :
    stageAtEdge .refresh ch =
      if ch.state = .active then .awaitingGrant else .filled .stale ch.absoluteAlong ch.absoluteAcross := by
  unfold stageAtEdge
  cases ch.state <;> rfl

/-! ## An edge that fills every entry -/

/-- R94, R95: the record that an edge makes when it fills every entry. -/
def recordAtEdge (s : State) (t : TriggerId) (edge : Edge) : CaptureRecord :=
  { trigger := t, edge := edge, overlap := false, timestamp := s.tickCount,
    entries := (allChannels.filter fun c => s.settings.triggers[t].mask.getLsbD c.val).map fun c =>
      { channel := c, status := if s.channels[c].state = .active then .current else .stale,
        along := s.channels[c].movementAlong + s.channels[c].offsetAlong,
        across := s.channels[c].movementAcross + s.channels[c].offsetAcross } }

theorem captureAtEdge_isRecordOf {s : State} {t : TriggerId} {edge : Edge}
    (h : s.settings.triggers[t].mode = .instant ∨
      ∀ c : ChannelId, s.settings.triggers[t].mask.getLsbD c.val = true → s.channels[c].state ≠ .active) :
    isRecordOf (captureAtEdge s t edge) (recordAtEdge s t edge) := by
  refine ⟨rfl, rfl, rfl, ?_⟩
  unfold captureAtEdge recordAtEdge maskChannels
  dsimp only
  rw [List.map_map]
  refine List.map_congr_left fun c hc => ?_
  have hmask : s.settings.triggers[t].mask.getLsbD c.val = true := (List.mem_filter.mp hc).2
  have hfill : s.settings.triggers[t].mode = .instant ∨ s.channels[c].state ≠ .active := h.imp id fun hn => hn c hmask
  rw [stageAtEdge_filled hfill]
  rfl

theorem modTrigger_capture_undone {t : TriggerId} {cap : Option Capture} {s : State}
    (h : s.triggers[t].capture = none) :
    (s.modTrigger t fun g => { g with capture := cap }).modTrigger t (fun g => { g with capture := none }) = s := by
  unfold State.modTrigger
  dsimp only
  rw [upd_upd, upd_eq_self _ _ _ (by rw [← h])]

theorem openCapture_filled {t : TriggerId} {edge : Edge} {s : State} (hc : s.triggers[t].capture = none)
    (h : s.settings.triggers[t].mode = .instant ∨
      ∀ c : ChannelId, s.settings.triggers[t].mask.getLsbD c.val = true → s.channels[c].state ≠ .active) :
    openCapture t edge s = appendRecord (recordAtEdge s t edge) s := by
  unfold openCapture
  rw [requestRefresh_fixed h]
  have hcomplete : completeCapture? (s.modTrigger t fun g => { g with capture := some (captureAtEdge s t edge) }) t =
      some (recordAtEdge s t edge) :=
    (completeCapture_some _ t _).2 ⟨rfl, captureAtEdge s t edge, congrArg Trigger.capture get_upd_eq,
      captureAtEdge_isRecordOf h⟩
  unfold finishCapture
  rw [hcomplete]
  exact congrArg (appendRecord _) (modTrigger_capture_undone hc)

/-- Settles O11: the record of the edge, handed over. -/
theorem edgeThatFillsEveryEntryMakesARecord : Obligations.EdgeThatFillsEveryEntryMakesARecord := by
  unfold Obligations.EdgeThatFillsEveryEntryMakesARecord
  intro i s hr hd ho hq hcap hfill
  have hopen := openCapture_filled (edge := changeFrom s.triggers[i].stable)
    ((confirmed_capture i s).trans hcap) (s := confirmed i s) hfill
  have hd' : ringsDisjoint (confirmed i s) := ringsDisjoint_congr (fun _ => rfl) hd
  obtain ⟨hrings, hkept, hslots⟩ := appendRecord_spec (recordAtEdge (confirmed i s) i (changeFrom s.triggers[i].stable)) hd'
  refine ⟨_, exec_running (i := .triggerEdgeQualified i) rfl hr, ?_⟩
  rw [confirmEvent_of_edge ho hq, qualifiedEdge_of_no_capture ((confirmed_capture i s).trans hcap), hopen]
  obtain ⟨hphase, htick, hstraps, hsettings, hchannels, hpolls, hbus, hviews, -, htriggers, hlease, hlinks, hpending⟩ :=
    appendRecord_frame (recordAtEdge (confirmed i s) i (changeFrom s.triggers[i].stable)) (confirmed i s)
  refine ⟨htriggers, fun v hv => (hrings v).trans (if_neg fun ht => absurd (hv.symm.trans ht) (by decide)),
    fun v hv hfull => (hrings v).trans ((if_pos hv).trans (if_neg (Nat.not_lt.mpr hfull))),
    fun v hv hroom => ⟨(hrings v).trans ((if_pos hv).trans (if_pos hroom)), hkept v ⟨hv, hroom⟩⟩,
    fun n hn => hslots n fun v hv => hn v hv.1 hv.2, ?_⟩
  exact State.eq_of_fields hphase htick hstraps hsettings hchannels hpolls hbus hviews rfl rfl rfl rfl hlease hlinks
    hpending

/-! ## An edge that opens a capture -/

/-- R95: the capture that a REFRESH edge opens. -/
def captureOfRefresh (s : State) (t : TriggerId) (edge : Edge) : Capture :=
  { edge := edge, overlap := false, timestamp := s.tickCount,
    entries := (allChannels.filter fun c => s.settings.triggers[t].mask.getLsbD c.val).map fun c =>
      { channel := c,
        stage := if s.channels[c].state = .active then .awaitingGrant
          else .filled .stale (s.channels[c].movementAlong + s.channels[c].offsetAlong)
            (s.channels[c].movementAcross + s.channels[c].offsetAcross) } }

theorem captureAtEdge_refresh {s : State} {t : TriggerId} {edge : Edge} (h : s.settings.triggers[t].mode = .refresh) :
    captureAtEdge s t edge = captureOfRefresh s t edge := by
  unfold captureAtEdge captureOfRefresh maskChannels
  congr 2
  funext c
  rw [h, stageAtEdge_refresh]
  rfl

/-- R102: a capture with an entry that waits is not handed over. -/
theorem finishCapture_of_waiting {s : State} {t : TriggerId} {cap : Capture} {e : Entry}
    (hc : s.triggers[t].capture = some cap) (he : e ∈ cap.entries) (hw : e.stage.waiting = true) :
    finishCapture s t = s := by
  have hnone : completeCapture? s t = none := by
    rw [Option.eq_none_iff_forall_ne_some]
    intro r hr
    obtain ⟨-, cap', hcap', -, -, -, hentries⟩ := (completeCapture_some s t r).1 hr
    obtain rfl : cap = cap' := Option.some.inj (hc.symm.trans hcap')
    rw [hentries] at he
    obtain ⟨x, -, rfl⟩ := List.mem_map.mp he
    cases hw
  unfold finishCapture; rw [hnone]

theorem openCapture_refresh {t : TriggerId} {edge : Edge} {s : State} (hm : s.settings.triggers[t].mode = .refresh)
    (h : ∃ c : ChannelId, s.settings.triggers[t].mask.getLsbD c.val = true ∧ s.channels[c].state = .active) :
    openCapture t edge s =
      (requestRefresh s t).modTrigger t fun g => { g with capture := some (captureOfRefresh s t edge) } := by
  obtain ⟨c, hmask, hactive⟩ := h
  unfold openCapture
  rw [captureAtEdge_refresh hm]
  refine finishCapture_of_waiting (cap := captureOfRefresh s t edge) (e := { channel := c, stage := .awaitingGrant })
    (congrArg Trigger.capture get_upd_eq) (List.mem_map.mpr ⟨c, List.mem_filter.mpr ⟨mem_allChannels c, hmask⟩, ?_⟩) rfl
  rw [if_pos hactive]

theorem requestRefresh_priority {s : State} {t : TriggerId} (hm : s.settings.triggers[t].mode = .refresh)
    (c : ChannelId) : (requestRefresh s t).polls[c] =
      if s.settings.triggers[t].mask.getLsbD c.val = true ∧ s.channels[c].state = .active then
        { s.polls[c] with priority := true } else s.polls[c] := by
  unfold requestRefresh
  refine (get_tab8 _ c.1 c.2).trans ?_
  simp only [hm, true_and]

/-- Settles O12: the capture that stays in flight, and the priority flags. -/
theorem refreshEdgeOpensACapture : Obligations.RefreshEdgeOpensACapture := by
  unfold Obligations.RefreshEdgeOpensACapture
  intro i s hr hcur ho hq hcap hmode hactive
  have hopen := openCapture_refresh (t := i) (edge := changeFrom s.triggers[i].stable) (s := confirmed i s) hmode hactive
  have hcur' : attentionCurrent (openCapture i (changeFrom s.triggers[i].stable) (confirmed i s)) := by
    rw [hopen]
    exact attentionCurrent_congr_fields (s := s) rfl rfl rfl rfl rfl rfl hcur
  refine ⟨_, exec_running (i := .triggerEdgeQualified i) rfl hr, ?_⟩
  rw [confirmEvent_of_edge ho hq, qualifiedEdge_of_no_capture ((confirmed_capture i s).trans hcap),
    attendAll_current (by rw [(openCapture_frame i _ _).1]; exact hr) hcur', hopen]
  refine ⟨?_, requestRefresh_priority (s := confirmed i s) hmode, rfl⟩
  rw [State.modTrigger_triggers, (requestRefresh_frame _ i).2.2.2.2.2.2.2.2.1]
  exact upd_upd s.triggers i (fun g => { g with stable := g.stable.flip, run := 0, confirmOwed := false })
    (fun g => { g with capture := some (captureOfRefresh s i (changeFrom s.triggers[i].stable)) })

end Sys2Proof.Machine

/-! PROOFS. O13 and O14: the arbiter's choice and the grant (R24, R33 to R35, R41, R96). -/

namespace Sys2Proof.Machine

/-! ## The search -/

/-- R35: how many places a channel lies behind the first that the search looks at. -/
def searchRank (p c : ChannelId) : Nat := (c - (p + 1)).val

theorem cyclicFrom_ranked (p : ChannelId) : (cyclicFrom p).Pairwise fun c d => searchRank p c < searchRank p d := by
  revert p; decide

theorem mem_cyclicFrom (p c : ChannelId) : c ∈ cyclicFrom p := by
  revert p c; decide

/-- R35: the search finds the member of least rank. -/
theorem searchFrom_first {p : ChannelId} {member : ChannelId → Bool} (h : ∃ c, member c = true) :
    ∃ c, searchFrom p member = some c ∧ member c = true ∧
      ∀ d, searchRank p d < searchRank p c → member d = false := by
  obtain ⟨x, hx⟩ := h
  obtain ⟨c, hc⟩ : ∃ c, searchFrom p member = some c := by
    rw [← Option.isSome_iff_exists]
    exact List.find?_isSome.mpr ⟨x, mem_cyclicFrom p x, hx⟩
  obtain ⟨hmember, before, after, hlist, hbefore⟩ := List.find?_eq_some_iff_append.mp hc
  refine ⟨c, hc, hmember, fun d hd => ?_⟩
  have hranked := cyclicFrom_ranked p
  rw [hlist, List.pairwise_append] at hranked
  have hmem := mem_cyclicFrom p d
  rw [hlist, List.mem_append, List.mem_cons] at hmem
  rcases hmem with hin | rfl | hin
  · simpa using hbefore d hin
  · exact absurd hd (Nat.lt_irrefl _)
  · exact absurd hd (Nat.lt_asymm ((List.pairwise_cons.mp hranked.2.1).1 d hin))

/-! ## Which set is used -/

theorem any_prioritySet_iff {s : State} :
    allChannels.any (prioritySet s) = true ↔ ∃ c : ChannelId, s.polls[c].priority = true := by
  simp [prioritySet]

theorem any_dueSet_iff {s : State} : allChannels.any (dueSet s) = true ↔ ∃ c : ChannelId, s.polls[c].due = true := by
  simp [dueSet]

theorem usesPriority_iff {s : State} : usesPriority s = true ↔
    (∃ c : ChannelId, s.polls[c].priority = true) ∧ ((∀ c : ChannelId, s.polls[c].due = false) ∨ s.bus.streak < 4) := by
  unfold usesPriority
  rw [Bool.and_eq_true, any_prioritySet_iff, Bool.not_eq_true', Bool.and_eq_false_iff, ← Bool.not_eq_true,
    any_dueSet_iff, decide_eq_false_iff_not, Nat.not_le]
  simp only [not_exists, Bool.not_eq_true, Config.streakMax]

theorem arbiterChoice_of_priority {s : State} (h : usesPriority s = true) :
    arbiterChoice s = searchFrom s.bus.pointer (prioritySet s) := if_pos h

theorem arbiterChoice_of_due {s : State} (h : ¬usesPriority s = true) :
    arbiterChoice s = searchFrom s.bus.pointer (dueSet s) := if_neg h

/-- Settles O13: the set that R34 names, searched by R35. -/
theorem arbiterChoosesByR34AndR35 : Obligations.ArbiterChoosesByR34AndR35 := by
  unfold Obligations.ArbiterChoosesByR34AndR35
  refine fun s => ⟨fun h => ?_, fun hp hturn => ?_, fun hd hturn => ?_⟩
  · have hnot : ¬usesPriority s = true := fun hu => by
      obtain ⟨c, hc⟩ := (usesPriority_iff.mp hu).1
      rw [(h c).1] at hc
      cases hc
    rw [arbiterChoice_of_due hnot]
    exact searchFrom_none fun c => (h c).2
  · rw [arbiterChoice_of_priority (usesPriority_iff.mpr ⟨hp, hturn⟩)]
    exact searchFrom_first hp
  · have hnot : ¬usesPriority s = true := fun hu => by
      obtain ⟨⟨c, hc⟩, hdue⟩ := usesPriority_iff.mp hu
      rcases hdue with hnone | hlow
      · obtain ⟨d, hd⟩ := hd
        rw [hnone d] at hd
        cases hd
      · rcases hturn with hnone | hhigh
        · rw [hnone c] at hc
          cases hc
        · omega
    rw [arbiterChoice_of_due hnot]
    exact searchFrom_first hd

/-! ## The grant -/

/-- R24: a channel that is not OFF gets a motion exchange if it is ACTIVE, and an identify exchange if not. -/
theorem kindFor_eq {x : ChannelState} (h : x ≠ .off) : kindFor x = some (if x = .active then .motion else .identify) := by
  cases x with
  | off => exact absurd rfl h
  | identify => rfl
  | active => rfl
  | faulted => rfl

theorem grantEvent_of_choice {s : State} {c : ChannelId} (hb : s.bus.exchange = none)
    (hc : arbiterChoice s = some c) (hs : s.channels[c].state ≠ .off) :
    grantEvent s = grantTo c (if s.channels[c].state = .active then .motion else .identify) s := by
  unfold grantEvent
  rw [hb, hc]
  simp only [kindFor_eq hs]

/-- R96: the triggers at a grant. -/
theorem grantTo_trigger (c : ChannelId) (kind : ExchangeKind) (s : State) (i : TriggerId) :
    (grantTo c kind s).triggers[i] =
      { s.triggers[i] with
        capture := s.triggers[i].capture.map fun cap => { cap with entries := cap.entries.map (Entry.grant c) } } :=
  mapEntries_triggers (Entry.grant c) _ i

theorem grantTo_bus (c : ChannelId) (kind : ExchangeKind) (s : State) :
    (grantTo c kind s).bus =
      { exchange := some { channel := c, kind := kind, discard := false, stage := .command, fillers := 0, block := [] }
        pointer := c
        streak := streakAfter s c } := rfl

theorem grantTo_polls (c : ChannelId) (kind : ExchangeKind) (s : State) :
    (grantTo c kind s).polls = upd s.polls c Poll.granted := rfl

/-- Settles O14: the grant of `grantTo`, register by register. -/
theorem grantStartsAnExchange : Obligations.GrantStartsAnExchange := by
  unfold Obligations.GrantStartsAnExchange
  intro s c hr hb hc hs
  refine ⟨_, exec_running (i := .grant) rfl hr, ?_⟩
  rw [grantEvent_of_choice hb hc hs, grantTo_bus]
  exact ⟨rfl, rfl, grantTo_polls c _ s, grantTo_trigger c _ s, rfl⟩

end Sys2Proof.Machine

/-! PROOFS. O16: the lines of the sensor bus, and what the bytes on SDI decide (R20 to R28). -/

namespace Sys2Proof.Machine

/-! ## The lines -/

theorem selectLow_idle {b : Bus} (h : b.exchange = none) (c : ChannelId) : selectLow b c = false := by
  unfold selectLow; rw [h]

theorem selectLow_iff {b : Bus} {e : Exchange} (h : b.exchange = some e) (c : ChannelId) :
    selectLow b c = true ↔ c = e.channel := by
  unfold selectLow
  rw [h]
  exact ⟨fun hc => (of_decide_eq_true hc).symm, fun hc => decide_eq_true hc.symm⟩

theorem sdoByte_idle {b : Bus} (h : b.exchange = none) : sdoByte b = 0 := by
  unfold sdoByte; rw [h]

theorem sdoByte_command {b : Bus} {e : Exchange} (h : b.exchange = some e) (hs : e.stage = .command) :
    sdoByte b = e.kind.command := by
  unfold sdoByte; rw [h]; simp only [hs]

theorem sdoByte_after {b : Bus} {e : Exchange} (h : b.exchange = some e) (hs : e.stage ≠ .command) : sdoByte b = 0 := by
  unfold sdoByte
  rw [h]
  cases hst : e.stage with
  | command => exact absurd hst hs
  | hunt => simp only [hst]
  | block => simp only [hst]

theorem msbFirst_zero : msbFirst 0 = 0 := by decide

/-- R21: the first of eight levels is the most significant bit of the byte they make. -/
theorem msbFirst_level (x : BitVec 8) {n : Nat} (h : n < 8) : (msbFirst x).getLsbD (7 - n) = x.getLsbD n := by
  rw [msbFirst_bit x (by omega), show 7 - (7 - n) = n by omega]

/-! ## Bytes of an exchange -/

theorem clockBytes_command (expected x : Byte) (c : ChannelId) (kind : ExchangeKind) (m : Bool) (bs : List Byte) :
    clockBytes expected ⟨c, kind, m, .command, 0, []⟩ (x :: bs) =
      clockBytes expected ⟨c, kind, m, .hunt, 0, []⟩ bs := rfl

/-- R25: a filler is counted; the eighth ends the hunt. -/
theorem clockBytes_filler {expected b : Byte} {c : ChannelId} {kind : ExchangeKind} {m : Bool} {n : Nat}
    (bs : List Byte) (hb : b ≠ Config.syncByte) (hn : n + 1 < 8) :
    clockBytes expected ⟨c, kind, m, .hunt, n, []⟩ (b :: bs) =
      clockBytes expected ⟨c, kind, m, .hunt, n + 1, []⟩ bs := by
  have hone : clockByte expected ⟨c, kind, m, .hunt, n, []⟩ b = .inFlight ⟨c, kind, m, .hunt, n + 1, []⟩ := by
    unfold clockByte
    dsimp only
    rw [if_neg hb, if_neg (show ¬Config.fillerMax ≤ n + 1 from Nat.not_le.mpr hn)]
  rw [clockBytes, hone]

theorem clockBytes_lastFiller {expected b : Byte} {c : ChannelId} {kind : ExchangeKind} {m : Bool} (bs : List Byte)
    (hb : b ≠ Config.syncByte) :
    clockBytes expected ⟨c, kind, m, .hunt, 7, []⟩ (b :: bs) =
      .completed ⟨c, kind, m, .hunt, 8, []⟩ (.failed .noResponse) := by
  have hone : clockByte expected ⟨c, kind, m, .hunt, 7, []⟩ b =
      .completed ⟨c, kind, m, .hunt, 8, []⟩ (.failed .noResponse) := by
    unfold clockByte
    dsimp only
    rw [if_neg hb]
    rfl
  rw [clockBytes, hone]

theorem clockBytes_sync {expected : Byte} {c : ChannelId} {kind : ExchangeKind} {m : Bool} {n : Nat} (bs : List Byte) :
    clockBytes expected ⟨c, kind, m, .hunt, n, []⟩ (Config.syncByte :: bs) =
      clockBytes expected ⟨c, kind, m, .block, n, []⟩ bs := rfl

/-- R25: fillers short of the eighth leave the hunt where it is. -/
theorem clockBytes_fillers {expected : Byte} {c : ChannelId} {kind : ExchangeKind} {m : Bool} {fills : List Byte}
    {n : Nat} (bs : List Byte) (hs : Config.syncByte ∉ fills) (hn : n + fills.length ≤ 7) :
    clockBytes expected ⟨c, kind, m, .hunt, n, []⟩ (fills ++ bs) =
      clockBytes expected ⟨c, kind, m, .hunt, n + fills.length, []⟩ bs := by
  induction fills generalizing n with
  | nil => rfl
  | cons b fills ih =>
    rw [List.length_cons] at hn
    have hb : b ≠ Config.syncByte := fun e => hs (e ▸ List.mem_cons_self)
    rw [List.cons_append, clockBytes_filler _ hb (by omega),
      ih (fun hm => hs (List.mem_cons_of_mem b hm)) (by omega), List.length_cons, Nat.add_right_comm, Nat.add_assoc]

/-- R25: eight fillers without a sync byte end the exchange. -/
theorem clockBytes_noResponse {expected : Byte} {c : ChannelId} {kind : ExchangeKind} {m : Bool} {fills : List Byte}
    (hs : Config.syncByte ∉ fills) (hn : fills.length = 8) :
    clockBytes expected ⟨c, kind, m, .hunt, 0, []⟩ fills =
      .completed ⟨c, kind, m, .hunt, 8, []⟩ (.failed .noResponse) := by
  obtain ⟨seven, last, rfl⟩ : ∃ seven last, fills = seven ++ [last] :=
    ⟨_, _, (List.dropLast_append_getLast (by rintro rfl; cases hn)).symm⟩
  rw [List.length_append, List.length_singleton] at hn
  obtain ⟨hseven, hlast⟩ := not_or.mp fun h => hs (List.mem_append.mpr h)
  rw [clockBytes_fillers [last] hseven (by omega), show 0 + seven.length = 7 by omega]
  exact clockBytes_lastFiller [] fun e => hlast (e ▸ List.mem_cons_self)

theorem clockBytes_identifyBlock (expected i k : Byte) (c : ChannelId) (m : Bool) (n : Nat) :
    clockBytes expected ⟨c, .identify, m, .block, n, []⟩ [i, k] =
      .completed ⟨c, .identify, m, .block, n, [i, k]⟩ (identifyOutcome expected i k) := rfl

theorem clockBytes_motionBlock (expected st al ac hn q k : Byte) (c : ChannelId) (m : Bool) (n : Nat) :
    clockBytes expected ⟨c, .motion, m, .block, n, []⟩ [st, al, ac, hn, q, k] =
      .completed ⟨c, .motion, m, .block, n, [st, al, ac, hn, q, k]⟩ (motionOutcome st al ac hn q k) := rfl

/-- R23 to R25: an exchange whose sensor sends at most seven fillers comes to its block. -/
theorem clockBytes_toBlock {expected x : Byte} {c : ChannelId} {kind : ExchangeKind} {m : Bool} {fills : List Byte}
    (bs : List Byte) (hs : Config.syncByte ∉ fills) (hn : fills.length ≤ 7) :
    clockBytes expected ⟨c, kind, m, .command, 0, []⟩ (x :: fills ++ Config.syncByte :: bs) =
      clockBytes expected ⟨c, kind, m, .block, fills.length, []⟩ bs := by
  rw [List.cons_append, clockBytes_command, clockBytes_fillers _ hs (by omega), Nat.zero_add, clockBytes_sync]

/-- Settles O16: the lines, the bit order, and the outcomes. -/
theorem outcomesOnTheWire : Obligations.OutcomesOnTheWire := by
  unfold Obligations.OutcomesOnTheWire
  refine ⟨fun b => ⟨fun h => ⟨selectLow_idle h, ?_, ?_⟩, fun e he => ⟨selectLow_iff he, ?_, fun hs hk n hn => ?_,
    fun hs hk n hn => ?_, fun hs => ?_⟩⟩, fun sdi => ⟨List.length_map _, fun k levels x hl hx n hn => ?_⟩,
    fun expected x c m fills hs => ⟨fun kind hn => ?_, fun hn i k => ?_, fun hn st al ac hi q k => ?_⟩⟩
  · unfold sckIdle; rw [h]; rfl
  · unfold sdoLevels; rw [sdoByte_idle h, msbFirst_zero]
  · unfold sckIdle; rw [he]; rfl
  · unfold sdoLevels
    rw [sdoByte_command he hs, hk, msbFirst_bit _ hn]
    rfl
  · unfold sdoLevels
    rw [sdoByte_command he hs, hk, msbFirst_bit _ hn]
    rfl
  · unfold sdoLevels; rw [sdoByte_after he hs, msbFirst_zero]
  · unfold bytesOnSdi at hx
    rw [List.getElem?_map, hl] at hx
    cases hx
    exact msbFirst_level levels hn
  · rw [clockBytes_command, clockBytes_noResponse hs hn]
  · rw [clockBytes_toBlock [i, k] hs hn, clockBytes_identifyBlock]
    rfl
  · rw [clockBytes_toBlock _ hs hn, clockBytes_motionBlock]
    rfl

end Sys2Proof.Machine

/-! PROOFS. O17 and O19 to O22: what a completed exchange does to its channel, to the views and to the captures (R6 to
R12, R43, R44, R53, R55, R97, R98, R102, R112). -/

namespace Sys2Proof.Machine

/-! ## A completion -/

/-- R29: the state with the exchange gone and the bus IDLE. -/
def busIdle (s : State) : State := { s with bus := { s.bus with exchange := none } }

/-- A completion looks at the channel, the kind and the discard mark of its exchange alone. -/
theorem applyCompletion_congr {e e' : Exchange} (hc : e'.channel = e.channel) (hk : e'.kind = e.kind)
    (hd : e'.discard = e.discard) (o : ExchangeOutcome) (s : State) :
    applyCompletion e' o s = applyCompletion e o s := by
  unfold applyCompletion applyOutcome discardedCompletion
  simp only [hc, hk, hd]

section
variable {s : State} {e e' : Exchange} {sdi : List (Samples 8)} {o : ExchangeOutcome}

/-- R29: the bytes that complete the exchange in flight, as one event. -/
theorem exec_completion (hr : s.phase = .running) (he : s.bus.exchange = some e)
    (hc : clockBytes s.settings.channels[e.channel].expectedId e (bytesOnSdi sdi) = .completed e' o) :
    exec (.exchangeCompletion sdi) s = .next (attendAll (applyCompletion e o (busIdle s))) := by
  obtain ⟨hchannel, hkind, hdiscard⟩ := clockBytes_keeps.2 e' o hc
  rw [exec_running (i := .exchangeCompletion sdi) rfl hr, exchangeEvent_of_completed he hc, completeExchange,
    applyCompletion_congr hchannel hkind hdiscard]
  rfl

theorem applyCompletion_motionFailed {cause : FaultCause} (hd : e.discard = false) (hk : e.kind = .motion)
    (ha : s.channels[e.channel].state = .active) :
    applyCompletion e (.failed cause) s = motionFailure e.channel cause s := by
  unfold applyCompletion applyOutcome
  rw [hd, hk, ha]
  rfl

theorem applyCompletion_identified (hd : e.discard = false) (hk : e.kind = .identify)
    (ha : s.channels[e.channel].state = .identify ∨ s.channels[e.channel].state = .faulted) :
    applyCompletion e .identified s = identifySuccess e.channel s := by
  unfold applyCompletion applyOutcome
  rcases ha with ha | ha <;> rw [hd, hk, ha] <;> rfl

theorem applyCompletion_identifyFailed {cause : FaultCause} (hd : e.discard = false) (hk : e.kind = .identify)
    (ha : s.channels[e.channel].state = .identify ∨ s.channels[e.channel].state = .faulted) :
    applyCompletion e (.failed cause) s = identifyFailure e.channel cause s := by
  unfold applyCompletion applyOutcome
  rcases ha with ha | ha <;> rw [hd, hk, ha] <;> rfl

theorem applyCompletion_discarded (hd : e.discard = true) : applyCompletion e o s = discardedCompletion e s := by
  unfold applyCompletion; rw [if_pos hd]

end

/-! ## Motion outcomes -/

theorem accumulateAll_view (c : ChannelId) (x y : BitVec 12) (q : Byte) (s : State) (v : LinkId) :
    (accumulateAll c x y q s).views[v] = s.views[v].accumulate c x y q :=
  get_tab4 (fun i => s.views[i].accumulate c x y q) v.1 v.2

theorem gapAll_view (c : ChannelId) (s : State) (v : LinkId) : (gapAll c s).views[v] = s.views[v].countGap c :=
  get_tab4 (fun i => s.views[i].countGap c) v.1 v.2

theorem motionSuccess_channels (c : ChannelId) (x y : BitVec 12) (q : Byte) (s : State) :
    (motionSuccess c x y q s).channels = upd s.channels c (Channel.moved x y) := by
  simp [motionSuccess]

theorem motionSuccess_view (c : ChannelId) (x y : BitVec 12) (q : Byte) (s : State) (v : LinkId) :
    (motionSuccess c x y q s).views[v] = s.views[v].accumulate c x y q := by
  have h : (motionSuccess c x y q s).views = (accumulateAll c x y q (s.modChannel c (Channel.moved x y))).views := by
    simp [motionSuccess]
  rw [h, accumulateAll_view]
  rfl

theorem motionFailure_view (c : ChannelId) (cause : FaultCause) (s : State) (v : LinkId) :
    (motionFailure c cause s).views[v] = s.views[v].countGap c := by
  have h : (motionFailure c cause s).views = (gapAll c (s.modChannel c (Channel.motionFailed cause))).views := by
    simp [motionFailure]
  rw [h, gapAll_view]
  rfl

/-- R42: a tier move is of the tier and the idle count alone. -/
theorem tierMove_flags (cs : ChannelSettings) (moved : Bool) (p : Poll) :
    (tierMove cs moved p).due = p.due ∧ (tierMove cs moved p).priority = p.priority := by
  unfold tierMove
  dsimp only
  split
  · exact ⟨rfl, rfl⟩
  · split
    · split <;> exact ⟨rfl, rfl⟩
    · exact ⟨rfl, rfl⟩

/-- Settles O17: the registers that a motion success writes. -/
theorem motionSuccessIsCounted : Obligations.MotionSuccessIsCounted := by
  unfold Obligations.MotionSuccessIsCounted
  intro s e e' sdi x y q hr he hd hk ha hc
  have hexec : exec (.exchangeCompletion sdi) s = .next (attendAll (motionSuccess e.channel x y q (busIdle s))) := by
    rw [exec_completion hr he hc, applyCompletion_moved (s := busIdle s) hd hk ha]
  have hchannels := motionSuccess_channels e.channel x y q (busIdle s)
  have hviews := motionSuccess_view e.channel x y q (busIdle s)
  have hpolls := motionSuccess_polls e.channel x y q (busIdle s)
  obtain ⟨hphase, htick, hstraps, hsettings, hbus, -, hlease, hlinks, hpending⟩ :=
    motionSuccess_frame e.channel x y q (busIdle s)
  generalize motionSuccess e.channel x y q (busIdle s) = u at *
  have hpoll : u.polls[e.channel] =
      Poll.motionDone s.settings.channels[e.channel] (reportsMotion x y) s.polls[e.channel] :=
    (congrArg (fun p : Vector Poll 8 => p[e.channel]) hpolls).trans get_upd_eq
  obtain ⟨hdue, hpriority⟩ := tierMove_flags s.settings.channels[e.channel] (reportsMotion x y) s.polls[e.channel]
  refine ⟨attendAll u, hexec, hbus, hchannels, hviews, fun d hne => ?_, (congrArg Poll.due hpoll).trans hdue,
    (congrArg Poll.priority hpoll).trans hpriority, ?_,
    State.eq_of_fields hphase htick hstraps hsettings rfl rfl rfl rfl rfl rfl rfl rfl hlease hlinks hpending⟩
  · exact (congrArg (fun p : Vector Poll 8 => p[d]) hpolls).trans (get_upd_ne hne)
  · show u.polls[e.channel].countdown = .running (periodTicks _ u.polls[e.channel].tier)
    rw [hpoll, Poll.motionDone_countdown]

/-- R12, R43, R44: the scheduler at a motion failure, by whether it is the third. -/
theorem Poll.motionFailed_eq (cs : ChannelSettings) (cause : FaultCause) (ch : Channel) (p : Poll) :
    Poll.motionFailed cs (ch.motionFailed cause) p =
      if 3 ≤ ch.faults + 1 then { p with priority := false, countdown := .running (10 * cs.t3Period) }
      else { p with countdown := .running (periodTicks cs p.tier) } := by
  unfold Poll.motionFailed Channel.motionFailed
  by_cases h : 3 ≤ ch.faults + 1
  · have hstate : (if Config.faultLimit ≤ ch.faults + 1 then ChannelState.faulted else .active) = .faulted := if_pos h
    simp only [hstate, if_pos h]
    rfl
  · have hstate : (if Config.faultLimit ≤ ch.faults + 1 then ChannelState.faulted else .active) = .active := if_neg h
    simp only [hstate, if_neg h]
    rfl

/-- Settles O19: the registers that a motion failure writes. -/
theorem motionFailureCountsAGap : Obligations.MotionFailureCountsAGap := by
  unfold Obligations.MotionFailureCountsAGap
  intro s e e' sdi cause hr he hd hk ha hc
  have hexec : exec (.exchangeCompletion sdi) s = .next (attendAll (motionFailure e.channel cause (busIdle s))) := by
    rw [exec_completion hr he hc, applyCompletion_motionFailed (s := busIdle s) hd hk ha]
  have hchannels := motionFailure_channels e.channel cause (busIdle s)
  have hviews := motionFailure_view e.channel cause (busIdle s)
  have hpolls := (motionFailure_polls e.channel cause (busIdle s)).trans
    (congrArg (upd s.polls e.channel) (funext (Poll.motionFailed_eq _ cause s.channels[e.channel])))
  obtain ⟨hphase, htick, hstraps, hsettings, hbus, -, hlease, hlinks, hpending⟩ :=
    motionFailure_frame e.channel cause (busIdle s)
  generalize motionFailure e.channel cause (busIdle s) = u at *
  exact ⟨attendAll u, hexec, hbus, hchannels, hviews, hpolls,
    State.eq_of_fields hphase htick hstraps hsettings rfl rfl rfl rfl rfl rfl rfl rfl hlease hlinks hpending⟩

/-! ## Entries -/

/-- R98: which stages a completion fills, by the channel as it leaves it. -/
theorem failureFills_iff (ch : Channel) (stage : EntryStage) : failureFills ch stage = true ↔
    stage = .awaitingResult ∨ (stage = .awaitingGrant ∧ ch.state = .faulted) := by
  unfold failureFills
  split
  · next h => cases stage <;> simp [EntryStage.waiting, h]
  · next h => cases stage <;> simp [EntryStage.granted, h]

/-- R97, R98: a channel that stays ACTIVE fills the entries that await its result. -/
theorem failureFills_of_not_faulted {ch : Channel} (h : ch.state ≠ .faulted) :
    failureFills ch = EntryStage.granted := if_neg h

/-- R97 to R99, R102, R112: entries are filled, and the captures that this completes are handed over. -/
theorem fillAndFinish_spec (sel : EntryStage → Bool) (c : ChannelId) (status : EntryStatus) (u : State) :
    (∀ i : TriggerId, (finishCaptures (fillEntries sel c status u)).triggers[i] =
      { u.triggers[i] with capture := stillInFlight (fillEntries sel c status u).triggers[i].capture }) ∧
    (ringsDisjoint u → ∃ rs, finishedRecords (fun i => (fillEntries sel c status u).triggers[i].capture) rs ∧
      handsOver rs u (finishCaptures (fillEntries sel c status u))) := by
  have htriggers (i : TriggerId) := fillEntries_triggers sel c status u i
  obtain ⟨-, -, -, -, -, -, -, hviews, -, hslots, hrings, -⟩ := fillEntries_frame sel c status u
  generalize fillEntries sel c status u = w at hviews hslots hrings htriggers
  refine ⟨fun i => by rw [finishCaptures_triggers, htriggers], fun hd => ?_⟩
  obtain ⟨rs, hrs, hhands⟩ := finishCaptures_handsOver (s := w) (ringsDisjoint_congr (by simp [hviews]) hd)
  exact ⟨rs, hrs, handsOver_from hhands hrings.symm hslots.symm fun v => by rw [hviews]⟩

/-- R98: the entries that a completion fills, written out. -/
theorem completionFills_capture (u : State) (c : ChannelId) (status : EntryStatus) (i : TriggerId) :
    (fillEntries (failureFills u.channels[c]) c status u).triggers[i].capture =
      u.triggers[i].capture.map fun cap =>
        { cap with
          entries := cap.entries.map fun en =>
            if en.channel = c ∧
                (en.stage = .awaitingResult ∨ (en.stage = .awaitingGrant ∧ u.channels[c].state = .faulted)) then
              { en with
                stage := .filled status (u.channels[c].movementAlong + u.channels[c].offsetAlong)
                  (u.channels[c].movementAcross + u.channels[c].offsetAcross) }
            else en } := by
  rw [fillEntries_triggers]
  unfold Entry.fill
  simp only [failureFills_iff]
  rfl

/-- R97, R98: the status that a motion completion gives to entries. -/
def completionStatus : ExchangeOutcome → EntryStatus
  | .moved _ _ _ => .fresh
  | .failed _ => .stale
  | .identified => .stale

/-- A motion completion, but for its captures, is a change of the channel, its poll and the accounts. -/
def motionCounted (c : ChannelId) (o : ExchangeOutcome) (s : State) : State :=
  match o with
  | .moved x y q =>
    (accumulateAll c x y q (s.modChannel c (Channel.moved x y))).modPoll c
      (Poll.motionDone s.settings.channels[c] (reportsMotion x y))
  | .failed cause =>
    (gapAll c (s.modChannel c (Channel.motionFailed cause))).modPoll c
      (Poll.motionFailed s.settings.channels[c] (s.channels[c].motionFailed cause))
  | .identified => s

theorem accumulate_viewSettings (c : ChannelId) (x y : BitVec 12) (q : Byte) (w : View) :
    (w.accumulate c x y q).settings = w.settings := by
  unfold View.accumulate; split <;> rfl

theorem countGap_viewSettings (c : ChannelId) (w : View) : (w.countGap c).settings = w.settings := by
  unfold View.countGap; split <;> rfl

theorem motionCounted_viewSettings (c : ChannelId) (o : ExchangeOutcome) (s : State) (v : LinkId) :
    (motionCounted c o s).views[v].settings = s.views[v].settings := by
  cases o with
  | moved x y q =>
    exact (congrArg View.settings (accumulateAll_view c x y q _ v)).trans (accumulate_viewSettings c x y q _)
  | failed cause => exact (congrArg View.settings (gapAll_view c _ v)).trans (countGap_viewSettings c _)
  | identified => rfl

theorem motionCounted_captures (c : ChannelId) (o : ExchangeOutcome) (s : State) :
    (motionCounted c o s).triggers = s.triggers ∧ (motionCounted c o s).rings = s.rings ∧
      (motionCounted c o s).slots = s.slots := by
  cases o <;> exact ⟨rfl, rfl, rfl⟩

/-- R97, R98: a motion completion fills the entries that its channel, as it leaves it, calls for. -/
theorem applyCompletion_motion {s : State} {e : Exchange} {o : ExchangeOutcome} (hd : e.discard = false)
    (hk : e.kind = .motion) (ha : s.channels[e.channel].state = .active) (ho : o ≠ .identified) :
    applyCompletion e o s =
      finishCaptures (fillEntries (failureFills (motionCounted e.channel o s).channels[e.channel]) e.channel
        (completionStatus o) (motionCounted e.channel o s)) := by
  cases o with
  | identified => exact absurd rfl ho
  | moved x y q =>
    have hchannel : (motionCounted e.channel (.moved x y q) s).channels[e.channel] =
        s.channels[e.channel].moved x y := get_upd_eq
    rw [applyCompletion_moved hd hk ha, hchannel,
      failureFills_of_not_faulted (show (s.channels[e.channel].moved x y).state ≠ .faulted from
        fun h => absurd (ha.symm.trans h) (by decide))]
    rfl
  | failed cause =>
    have hchannel : (motionCounted e.channel (.failed cause) s).channels[e.channel] =
        s.channels[e.channel].motionFailed cause := get_upd_eq
    have hgap : (gapAll e.channel (s.modChannel e.channel (Channel.motionFailed cause))).channels[e.channel] =
        s.channels[e.channel].motionFailed cause := get_upd_eq
    rw [applyCompletion_motionFailed hd hk ha, hchannel]
    unfold motionFailure
    dsimp only
    rw [hgap]
    rfl

/-- Settles O20: the entries that a motion completion fills, and the records that it hands over. -/
theorem completionsFillTheirEntries : Obligations.CompletionsFillTheirEntries := by
  unfold Obligations.CompletionsFillTheirEntries
  intro s t e e' sdi o hr he hd hk ha hc ho ht
  have hview := motionCounted_viewSettings e.channel o (busIdle s)
  obtain ⟨htriggers, hrings, hslots⟩ := motionCounted_captures e.channel o (busIdle s)
  rw [exec_completion hr he hc, applyCompletion_motion (s := busIdle s) hd hk ha ho] at ht
  injection ht with ht
  generalize motionCounted e.channel o (busIdle s) = u at *
  obtain ⟨hleft, hhands⟩ :=
    fillAndFinish_spec (failureFills u.channels[e.channel]) e.channel (completionStatus o) u
  have hfilled := completionFills_capture u e.channel (completionStatus o)
  have hchannels : (finishCaptures (fillEntries (failureFills u.channels[e.channel]) e.channel (completionStatus o)
      u)).channels = u.channels := by simp
  generalize fillEntries (failureFills u.channels[e.channel]) e.channel (completionStatus o) u = w at *
  generalize finishCaptures w = x at *
  subst ht
  refine ⟨fun i => w.triggers[i].capture, fun i => ?_, fun i => ?_, fun hdis => ?_⟩
  · rw [(attendAll_frame x).2.2.2.2.1, hchannels]
    refine (hfilled i).trans ?_
    rw [htriggers]
    cases o <;> rfl
  · refine (hleft i).trans ?_
    rw [htriggers]
    rfl
  · obtain ⟨rs, hrs, hho⟩ := hhands (ringsDisjoint_congr hview hdis)
    exact ⟨rs, hrs, handsOver_of_rings (handsOver_from hho hrings.symm hslots.symm fun v => (hview v).symm) rfl rfl⟩

/-! ## Identify outcomes -/

/-- R9, R43: an identify failure, from the record that it leaves and the period that follows it. -/
theorem identifyFailure_eq {c : ChannelId} {cause : FaultCause} {s : State} {f : Channel → Channel} {tier : Tier}
    (h : s.channels[c].identifyFailed cause = f s.channels[c])
    (ht : retryTier (f s.channels[c]) = tier) :
    identifyFailure c cause s =
      { s with
        channels := upd s.channels c f
        polls := upd s.polls c (Poll.reload s.settings.channels[c] tier) } := by
  have hchannels : upd s.channels c (Channel.identifyFailed cause) = upd s.channels c f := upd_congr _ _ _ _ h
  have hchannel : (upd s.channels c f)[c] = f s.channels[c] := get_upd_eq
  subst ht
  unfold identifyFailure State.modPoll State.modChannel
  dsimp only
  rw [hchannels, hchannel]

theorem identifyFailed_below {cause : FaultCause} {ch : Channel} (h : ch.state = .identify) (hn : ch.faults + 1 < 3) :
    ch.identifyFailed cause = { ch with lastCause := cause, faults := ch.faults + 1 } := by
  unfold Channel.identifyFailed
  rw [h]
  simp only [if_neg (show ¬Config.faultLimit ≤ ch.faults + 1 from Nat.not_le.mpr hn)]

theorem identifyFailed_third {cause : FaultCause} {ch : Channel} (h : ch.state = .identify) (hn : 3 ≤ ch.faults + 1) :
    ch.identifyFailed cause = { ch with lastCause := cause, faults := ch.faults + 1, state := .faulted } := by
  unfold Channel.identifyFailed
  rw [h]
  simp only [if_pos (show Config.faultLimit ≤ ch.faults + 1 from hn)]

theorem identifyFailed_faulted {cause : FaultCause} {ch : Channel} (h : ch.state = .faulted) :
    ch.identifyFailed cause = { ch with lastCause := cause } := by
  unfold Channel.identifyFailed
  rw [h]

theorem retryTier_of_faulted {ch : Channel} (h : ch.state = .faulted) : retryTier ch = .t3 := if_pos h

theorem retryTier_of_not_faulted {ch : Channel} (h : ch.state ≠ .faulted) : retryTier ch = .t0 := if_neg h

/-- Settles O21: an identify success, and the three failures. -/
theorem identifyOutcomesAreApplied : Obligations.IdentifyOutcomesAreApplied := by
  unfold Obligations.IdentifyOutcomesAreApplied
  intro s e e' sdi o hr he hd hk hc
  refine ⟨fun ho ha => ?_, fun cause ho => ⟨fun ha hn => ?_, fun ha hn => ?_, fun ha => ?_⟩⟩
  · subst ho
    rw [exec_completion hr he hc, applyCompletion_identified (s := busIdle s) hd hk ha]
    rfl
  · subst ho
    rw [exec_completion hr he hc, applyCompletion_identifyFailed (s := busIdle s) hd hk (.inl ha),
      identifyFailure_eq (s := busIdle s) (f := fun ch => { ch with lastCause := cause, faults := ch.faults + 1 })
        (identifyFailed_below ha hn) (retryTier_of_not_faulted fun h => absurd (ha.symm.trans h) (by decide))]
    rfl
  · subst ho
    rw [exec_completion hr he hc, applyCompletion_identifyFailed (s := busIdle s) hd hk (.inl ha),
      identifyFailure_eq (s := busIdle s)
        (f := fun ch => { ch with lastCause := cause, faults := ch.faults + 1, state := .faulted })
        (identifyFailed_third ha hn) (retryTier_of_faulted rfl)]
    rfl
  · subst ho
    rw [exec_completion hr he hc, applyCompletion_identifyFailed (s := busIdle s) hd hk (.inr ha),
      identifyFailure_eq (s := busIdle s) (f := fun ch => { ch with lastCause := cause })
        (identifyFailed_faulted ha) (retryTier_of_faulted ha)]
    rfl

/-- Settles O22: a marked completion is `discardedCompletion`. -/
theorem discardedCompletionAppliesNothing : Obligations.DiscardedCompletionAppliesNothing := by
  unfold Obligations.DiscardedCompletionAppliesNothing
  intro s e e' sdi o hr he hd hc
  refine ⟨_, (exec_completion hr he hc).trans (congrArg (fun u => Host.Outcome.next (attendAll u))
    (applyCompletion_discarded (s := busIdle s) hd)), ?_⟩
  unfold discardedCompletion
  cases e.kind with
  | motion => exact ⟨rfl, gapAll_view e.channel (busIdle s), rfl⟩
  | identify => exact ⟨rfl, fun v => rfl, rfl⟩

end Sys2Proof.Machine

/-! PROOFS. O24 to O28: motion reports, capture reports and VIEW RESET (R59, R60, R71 to R82, R111, R114 to R118). -/

namespace Sys2Proof.Machine

/-! ## The end of a request -/

/-- R122, R147: the state after the reply `f` to a request, where the request left `u`; `s1` is the composition. -/
theorem renewLease_send {l : LinkId} {rest : List Request} {f : TxFrame} {s1 u : State}
    (hlinks : u.links = (popped l rest s1).links) (hlease : u.lease = s1.lease) (hsettings : u.settings = s1.settings) :
    renewLease l (send l f u) =
      { u with
        links := upd s1.links l fun k => { k with queue := rest, tx := .sending f }
        lease := (renewLease l s1).lease } := by
  have hl : (send l f u).links = upd s1.links l fun k => { k with queue := rest, tx := .sending f } := by
    rw [send_links, hlinks]
    exact upd_upd s1.links l (fun k => { k with queue := rest }) (fun k => { k with tx := .sending f })
  have he : (renewLease l (send l f u)).lease = (renewLease l s1).lease := renewLease_congr hlease hsettings
  rw [renewLease_eq, he]
  exact State.eq_of_fields rfl rfl rfl rfl rfl rfl rfl rfl rfl rfl rfl rfl rfl hl rfl

/-! ## MOTION READ -/

theorem exec_motionRead {l : LinkId} {mask options : Byte} {rest : List Request} {s s1 : State}
    (h : atComposition l (.motionRead mask options) rest s s1) :
    exec (.motionRead l mask options) s = .next (renewLease l (runMotionRead l mask options (popped l rest s1))) :=
  (exec_commandOf h).trans (congrArg Host.Outcome.next (execute_eq_popped l _ rest s1))

theorem runMotionRead_composed {l : LinkId} {mask options : Byte} {s : State} (h : options = 0 ∨ options = 1) :
    runMotionRead l mask options s =
      send l (longReply .motionReport (motionPayload s s.views[l] mask (decide (options = 1))))
        (s.modView l fun w => { w with report := some (composedLines s.views[l] mask (decide (options = 1))) }) :=
  if_pos h

/-- R77: the entries of a report fit in the view's max reply. -/
theorem composedLines_fit {v : View} (mask : Byte) (changedOnly : Bool) (h : 2 ≤ v.settings.maxReply) :
    2 + (composedLines v mask changedOnly).length * entrySize v.settings.width v.settings.includeAbsolute ≤
      v.settings.maxReply := by
  have hlength : (composedLines v mask changedOnly).length ≤ entriesThatFit v := by
    unfold composedLines includedAccounts
    rw [List.length_map]
    exact List.length_take_le _ _
  have hmul := Nat.mul_le_mul_right (entrySize v.settings.width v.settings.includeAbsolute) hlength
  have hdiv := Nat.div_mul_le_self (v.settings.maxReply - 2) (entrySize v.settings.width v.settings.includeAbsolute)
  unfold entriesThatFit at hmul
  omega

theorem entrySize_pos (w : ReportWidth) (absolute : Bool) : 0 < entrySize w absolute := by
  cases w <;> exact Nat.add_pos_left (by decide) _

/-- R73, R77: a selected account without a line is one that the report has no room for, and its channel is above those
of the lines. -/
theorem composedLines_full {v : View} {mask : Byte} {changedOnly : Bool} {c : ChannelId} {a : Account}
    (hm : mask.getLsbD c.val = true) (ha : v.account? c = some a)
    (hu : ¬(changedOnly = true ∧ a.unchanged = true))
    (hc : c ∉ (composedLines v mask changedOnly).map (·.channel)) :
    v.settings.maxReply < 2 + ((composedLines v mask changedOnly).length + 1) *
        entrySize v.settings.width v.settings.includeAbsolute ∧
      ∀ ln ∈ composedLines v mask changedOnly, ln.channel < c := by
  have hselected : (c, a) ∈ selectedAccounts v mask changedOnly := mem_selectedAccounts.2 ⟨hm, ha, hu⟩
  have hsorted := selectedAccounts_sorted v mask changedOnly
  rw [← List.take_append_drop (entriesThatFit v) (selectedAccounts v mask changedOnly)] at hselected hsorted
  have hdropped : (c, a) ∈ (selectedAccounts v mask changedOnly).drop (entriesThatFit v) := by
    refine (List.mem_append.mp hselected).resolve_left fun hin => hc ?_
    exact List.mem_map.mpr ⟨_, List.mem_map_of_mem hin, rfl⟩
  refine ⟨?_, fun ln hln => ?_⟩
  · have hlength : (composedLines v mask changedOnly).length = entriesThatFit v := by
      have hpos := List.length_pos_of_mem hdropped
      rw [List.length_drop] at hpos
      unfold composedLines includedAccounts
      rw [List.length_map, List.length_take]
      omega
    have hlt := Nat.lt_mul_div_succ (v.settings.maxReply - 2)
      (entrySize_pos v.settings.width v.settings.includeAbsolute)
    rw [hlength]
    unfold entriesThatFit
    rw [Nat.mul_comm] at hlt
    omega
  · obtain ⟨x, hx, rfl⟩ := List.mem_map.mp hln
    rw [List.map_append, List.pairwise_append] at hsorted
    exact hsorted.2.2 x.1 (List.mem_map_of_mem hx) c (List.mem_map.mpr ⟨_, hdropped, rfl⟩)

/-- Settles O24: the refusal, and the report of `composedLines`. -/
theorem motionReadComposesItsReport : Obligations.MotionReadComposesItsReport := by
  unfold Obligations.MotionReadComposesItsReport
  refine fun l mask options rest s s1 h => ⟨fun h0 h1 => ?_, fun ho hlegal => ?_⟩
  · rw [exec_motionRead h, runMotionRead, if_neg (not_or.mpr ⟨h0, h1⟩)]
    rfl
  · have hview : (popped l rest s1).views[l] = s1.views[l] := rfl
    have hread := exec_motionRead h
    rw [runMotionRead_composed ho, renewLease_send (s1 := s1) (rest := rest) ?links ?lease ?settings, hview]
      at hread
    case links => rfl
    case lease => rfl
    case settings => rfl
    have honly : decide (options = 1) = true ↔ options = 1 := decide_eq_true_iff
    refine ⟨_, composedLines s1.views[l] mask (decide (options = 1)), hread, rfl,
      composedLines_sorted s1.views[l] mask (decide (options = 1)), fun ln hln => ?_,
      composedLines_fit mask _ (by have := (hlegal.2.2.2.1 l).1; omega), fun c a hm ha hu => ?_, rfl, rfl⟩
    · obtain ⟨a, hline, hm, ha, hu⟩ := mem_composedLines hln
      rw [honly] at hu
      refine ⟨hm, a, ha, ?_, ?_, ?_, ?_, ?_, hu⟩ <;> rw [hline] <;> rfl
    · exact composedLines_full hm ha (by rw [honly]; exact hu)

/-! ## The delivery of a MOTION REPORT -/

theorem exec_replyDelivery {l : LinkId} {kind : ReplyKind} {s : State} (h : isSending l kind s) :
    exec (.replyDelivery l) s = .next (afterDelivery l kind (deliverFrame l kind s)) := by
  obtain ⟨ho, f, htx, rfl⟩ := h
  rw [exec_link (i := .replyDelivery l) rfl ho, deliveryEvent, htx]

theorem deliverMotion_eq {l : LinkId} {lines : List ReportLine} {s : State} (h : s.views[l].report = some lines) :
    deliverMotion l s =
      attendAll (s.modView l fun v => { v with accounts := lines.foldl applyLine v.accounts, report := none }) := by
  unfold deliverMotion; rw [h]

/-- Settles O25: `deliverMotion`, line by line. -/
theorem motionDeliveryConsumesItsLines : Obligations.MotionDeliveryConsumesItsLines := by
  unfold Obligations.MotionDeliveryConsumesItsLines
  intro l s lines hsend hreport hnodup
  have hview : (deliverMotion l s).views = upd s.views l fun v =>
      { v with accounts := lines.foldl applyLine v.accounts, report := none } := by
    rw [deliverMotion_eq hreport]; rfl
  have hat : (deliverMotion l s).views[l] =
      { s.views[l] with accounts := lines.foldl applyLine s.views[l].accounts, report := none } :=
    (congrArg (fun w : Vector View 4 => w[l]) hview).trans get_upd_eq
  have hframe : deliverMotion l s =
      { s with views := (deliverMotion l s).views, attention := (deliverMotion l s).attention } := by
    rw [deliverMotion_eq hreport]; rfl
  refine ⟨deliverMotion l s, exec_replyDelivery hsend, ?_, fun ln hln a ha => ?_, fun c hc => ?_, ?_, hframe⟩
  · rw [hat]
  · rw [hat]
    dsimp only
    rw [foldl_applyLine_of_mem hnodup hln, ha]
    rfl
  · rw [hat]
    exact foldl_applyLine_of_not_mem hc
  · rw [hat, hview]
    exact upd_congr _ _ _ _ rfl

/-! ## VIEW RESET -/

theorem clear_account (v : View) (c : ChannelId) :
    v.clear.accounts[c] = v.accounts[c].map fun _ => Account.created :=
  get_tab8 (fun c => v.accounts[c].map fun _ => Account.created) c.1 c.2

/-- R107: of the slots that are cleared from the head of a ring, and the others. -/
theorem readSlot_clearHead {s : State} {v : LinkId} {m : Nat} :
    (∀ k < m, readSlot (clearSlots s.slots (headSlots s v m)) (slotBehindHead s v k) = none) ∧
      ∀ n, (∀ k < m, n ≠ slotBehindHead s v k) →
        readSlot (clearSlots s.slots (headSlots s v m)) n = readSlot s.slots n := by
  refine ⟨fun k hk => ?_, fun n hn => ?_⟩
  · rw [readSlot_clearSlots, if_pos (mem_headSlots.2 ⟨k, hk, rfl⟩)]
  · rw [readSlot_clearSlots, if_neg]
    intro hin
    obtain ⟨k, hk, rfl⟩ := mem_headSlots.1 hin
    exact hn k hk rfl

theorem exec_viewReset {l : LinkId} {rest : List Request} {s s1 : State} (h : atComposition l .viewReset rest s s1) :
    exec (.viewReset l) s = .next (renewLease l (send l (shortReply .result 0x13 0)
      (attendAll (emptyRing l ((popped l rest s1).modView l View.clear))))) :=
  (exec_commandOf h).trans (congrArg Host.Outcome.next (execute_eq_popped l _ rest s1))

theorem headSlots_clear (l : LinkId) (rest : List Request) (s : State) (m : Nat) :
    headSlots ((popped l rest s).modView l View.clear) l m = headSlots s l m := by
  have hsettings : ((popped l rest s).modView l View.clear).views[l].settings = s.views[l].settings := by
    rw [State.modView_views, get_upd_eq]
    rfl
  unfold headSlots
  rw [hsettings]
  rfl

/-- Settles O26: the view cleared and the ring emptied. -/
theorem viewResetClearsTheView : Obligations.ViewResetClearsTheView := by
  unfold Obligations.ViewResetClearsTheView
  intro l rest s s1 h
  have hreset := exec_viewReset h
  rw [renewLease_send (s1 := s1) (rest := rest) ?links ?lease ?settings] at hreset
  case links => rfl
  case lease => rfl
  case settings => rfl
  have hview : (upd s1.views l View.clear)[l] = s1.views[l].clear := get_upd_eq
  have hslots : (emptyRing l ((popped l rest s1).modView l View.clear)).slots =
      clearSlots s1.slots (headSlots s1 l s1.rings[l].count) :=
    congrArg (clearSlots s1.slots) (headSlots_clear l rest s1 _)
  obtain ⟨hcleared, hkept⟩ := readSlot_clearHead (s := s1) (v := l) (m := s1.rings[l].count)
  rw [← hslots] at hcleared hkept
  refine ⟨_, hreset, fun c => ?_, ?_, rfl, hcleared, hkept, rfl, rfl⟩
  · show (upd s1.views l View.clear)[l].accounts[c] = _
    rw [hview, clear_account]
    rfl
  · show upd s1.views l View.clear = upd s1.views l fun v =>
      { v with accounts := (upd s1.views l View.clear)[l].accounts, leaseLost := false, lostAgain := false }
    rw [hview]
    exact upd_congr _ _ _ _ rfl

/-! ## CAPTURE READ -/

/-- R115: what is taken are the first records, as many as are asked for and fit. -/
theorem takeRecords_spec (n room : Nat) (rs : List CaptureRecord) :
    ∃ left, rs = takeRecords n room rs ++ left ∧ (takeRecords n room rs).length ≤ n ∧
      ((takeRecords n room rs).map recordSize).sum ≤ room ∧
      ∀ r more, left = r :: more → (takeRecords n room rs).length < n →
        room < ((takeRecords n room rs).map recordSize).sum + recordSize r := by
  induction n generalizing room rs with
  | zero => exact ⟨rs, rfl, Nat.le_refl _, Nat.zero_le _, fun r more _ h => absurd h (Nat.lt_irrefl 0)⟩
  | succ n ih =>
    cases rs with
    | nil => exact ⟨[], rfl, Nat.zero_le _, Nat.zero_le _, fun r more h => (by cases h)⟩
    | cons r rs =>
      unfold takeRecords
      split
      · next hfit =>
        obtain ⟨left, hrs, hlength, hsum, hstop⟩ := ih (room - recordSize r) rs
        refine ⟨left, congrArg (r :: ·) hrs, Nat.succ_le_succ hlength, ?_, fun x more hleft hlt => ?_⟩
        · rw [List.map_cons, List.sum_cons]
          omega
        · have hx := hstop x more hleft (Nat.lt_of_succ_lt_succ hlt)
          rw [List.map_cons, List.sum_cons]
          omega
      · next hfit =>
        refine ⟨r :: rs, rfl, Nat.zero_le _, Nat.zero_le _, fun x more hleft _ => ?_⟩
        cases hleft
        simpa using hfit

theorem exec_captureRead {l : LinkId} {n : Byte} {rest : List Request} {s s1 : State}
    (h : atComposition l (.captureRead n) rest s s1) :
    exec (.captureRead l n) s = .next (renewLease l (runCaptureRead l n (popped l rest s1))) :=
  (exec_commandOf h).trans (congrArg Host.Outcome.next (execute_eq_popped l _ rest s1))

/-- R115: the records of a CAPTURE REPORT. -/
def reportedRecords (l : LinkId) (n : Byte) (s : State) : List CaptureRecord :=
  takeRecords n.toNat (s.views[l].settings.maxReply - 2) (ringRecords s l)

theorem runCaptureRead_composed {l : LinkId} {n : Byte} {s : State} (h : n ≠ 0) :
    runCaptureRead l n s =
      send l (longReply .captureReport (capturePayload s.rings[l].dropped
          (decide ((reportedRecords l n s).length < s.rings[l].count)) (reportedRecords l n s)))
        (s.modRing l fun g =>
          { g with report := some { records := (reportedRecords l n s).length, dropped := s.rings[l].dropped } }) :=
  if_neg h

/-- Settles O27: the refusal, and the report of `takeRecords`. -/
theorem captureReadComposesItsReport : Obligations.CaptureReadComposesItsReport := by
  unfold Obligations.CaptureReadComposesItsReport
  refine fun l n rest s s1 h => ⟨fun h0 => ?_, fun h0 hlegal => ?_⟩
  · rw [exec_captureRead h, runCaptureRead, if_pos h0]
    rfl
  · have hread := exec_captureRead h
    have hrecords : reportedRecords l n (popped l rest s1) = reportedRecords l n s1 := rfl
    have hring : (popped l rest s1).rings[l] = s1.rings[l] := rfl
    rw [runCaptureRead_composed h0, renewLease_send (s1 := s1) (rest := rest) ?links ?lease ?settings, hrecords,
      hring] at hread
    case links => rfl
    case lease => rfl
    case settings => rfl
    obtain ⟨left, hrs, hlength, hsum, hstop⟩ :=
      takeRecords_spec n.toNat (s1.views[l].settings.maxReply - 2) (ringRecords s1 l)
    have hmax := (hlegal.2.2.2.1 l).1
    refine ⟨_, reportedRecords l n s1, left, hread, hrs, hlength, ?_, fun r more hleft hlt => ?_, ?_, rfl, rfl⟩
    · unfold reportedRecords; omega
    · have hx := hstop r more hleft hlt
      unfold reportedRecords
      omega
    · exact upd_congr s1.rings l
        (fun g => { g with
          report := some { records := (reportedRecords l n s1).length, dropped := s1.rings[l].dropped } })
        (fun g => { g with report := some { records := (reportedRecords l n s1).length, dropped := g.dropped } }) rfl

/-! ## The delivery of a CAPTURE REPORT -/

/-- Settles O28: `deliverCapture`, by the slots of the records that it removes. -/
theorem captureDeliveryRemovesItsRecords : Obligations.CaptureDeliveryRemovesItsRecords := by
  unfold Obligations.CaptureDeliveryRemovesItsRecords
  intro l s rep hsend hreport
  obtain ⟨hring, hother, hslots⟩ := deliverCapture_ring hreport
  obtain ⟨hcleared, hkept⟩ := readSlot_clearHead (s := s) (v := l) (m := rep.records)
  rw [← hslots] at hcleared hkept
  have hrings : (deliverCapture l s).rings = upd s.rings l (fun g =>
      { head := (g.head + rep.records) % (8 * s.views[l].settings.ringLength), count := g.count - rep.records,
        dropped := g.dropped - rep.dropped, report := none }) := by
    refine vector_ext fun v => ?_
    by_cases hv : v = l
    · subst hv
      rw [hring, get_upd_eq]
    · rw [hother v hv, get_upd_ne hv]
  have hframe : deliverCapture l s =
      { s with
        rings := (deliverCapture l s).rings, slots := (deliverCapture l s).slots
        attention := (deliverCapture l s).attention } := by
    unfold deliverCapture; rw [hreport]; rfl
  exact ⟨deliverCapture l s, exec_replyDelivery hsend, hrings, hcleared, hkept, hframe⟩

end Sys2Proof.Machine

/-! PROOFS. O31 to O33: SETTING READ, the checks of a SETTING WRITE, and what an accepted one is held as (R130 to
R133). -/

namespace Sys2Proof.Machine

/-! ## SETTING READ -/

theorem toNat_word (a b : Byte) : (word a b).toNat = 256 * a.toNat + b.toNat := by
  unfold word
  rw [BitVec.toNat_append, Nat.shiftLeft_eq, Nat.mul_comm, ← Nat.two_pow_add_eq_or_of_lt b.isLt]

theorem parseRead_none {payload : List Byte} (h : payload.length ≠ 3) : parseRead payload = none := by
  unfold parseRead
  split
  · exact absurd rfl h
  · rfl

theorem checkRead_badRequest {payload : List Byte} (h : payload.length ≠ 3) :
    checkRead payload = .error .badRequest := by
  unfold checkRead; rw [parseRead_none h]

theorem checkRead_outOfRange {a b n : Byte} (h : n = 0 ∨ 32 < n.toNat) : checkRead [a, b, n] = .error .outOfRange := by
  refine if_neg fun hn => ?_
  rcases h with rfl | h
  · exact absurd hn.1 (by decide)
  · omega

theorem checkRead_badAddress {a b n : Byte} (h1 : 1 ≤ n.toNat) (h2 : n.toNat ≤ 32)
    (h : resolveRun (256 * a.toNat + b.toNat) n.toNat = none) : checkRead [a, b, n] = .error .badAddress := by
  rw [← toNat_word] at h
  refine (if_pos ⟨h1, h2⟩).trans ?_
  rw [h]

theorem checkRead_ok {a b n : Byte} {run : List Setting} (h1 : 1 ≤ n.toNat) (h2 : n.toNat ≤ 32)
    (h : resolveRun (256 * a.toNat + b.toNat) n.toNat = some run) : checkRead [a, b, n] = .ok run := by
  rw [← toNat_word] at h
  refine (if_pos ⟨h1, h2⟩).trans ?_
  rw [h]

theorem exec_settingRead_refused {l : LinkId} {payload : List Byte} {rest : List Request} {s s1 : State}
    {code : ResultCode} (h : atComposition l (.settingRead payload) rest s s1) (hc : checkRead payload = .error code) :
    exec (.settingRead l payload) s =
      .next (renewLease l (send l (shortReply .result 0x40 code.code) (popped l rest s1))) := by
  refine (exec_commandOf h).trans (congrArg Host.Outcome.next ?_)
  rw [execute_eq_popped]
  show renewLease l (runSettingRead l payload (popped l rest s1)) = _
  unfold runSettingRead
  rw [hc]
  rfl

/-- Settles O31: the three refusals, and the answer. -/
theorem settingReadAnswers : Obligations.SettingReadAnswers := by
  unfold Obligations.SettingReadAnswers
  refine fun l payload rest s s1 h => ⟨fun hlength => exec_settingRead_refused h (checkRead_badRequest hlength),
    fun a b n hp hn => ?_, fun a b n hp h1 h2 hrun => ?_, fun a b n run hp h1 h2 hrun => ?_⟩
  · subst hp
    exact exec_settingRead_refused h (checkRead_outOfRange hn)
  · subst hp
    exact exec_settingRead_refused h (checkRead_badAddress h1 h2 hrun)
  · subst hp
    refine (exec_commandOf h).trans (congrArg Host.Outcome.next ?_)
    rw [execute_eq_popped]
    show renewLease l (runSettingRead l [a, b, n] (popped l rest s1)) = _
    unfold runSettingRead
    rw [checkRead_ok h1 h2 hrun]
    rfl

/-! ## The checks of a SETTING WRITE -/

theorem words_length {payload : List Byte} {ws : List Word} (h : words payload = some ws) :
    payload.length = 2 * ws.length := by
  induction payload using words.induct generalizing ws with
  | case1 => cases h; rfl
  | case2 b => cases h
  | case3 a b rest ih =>
    unfold words at h
    obtain ⟨vs, hvs, rfl⟩ := Option.map_eq_some_iff.mp h
    rw [List.length_cons, List.length_cons, List.length_cons, ih hvs]
    omega

theorem parseWrite_length {payload : List Byte} {a : Nat} {values : List Word}
    (h : parseWrite payload = some (a, values)) :
    payload.length = 2 * (values.length + 1) ∧ 1 ≤ values.length ∧ values.length ≤ 32 := by
  unfold parseWrite at h
  split at h
  · next x v vs hwords =>
    split at h
    · next hlength =>
      cases h
      exact ⟨words_length hwords, Nat.succ_pos _, hlength⟩
    · cases h
  · cases h

theorem checkWrite_badRequest {payload : List Byte} {s : State} {l : LinkId}
    (h : payload.length % 2 = 1 ∨ payload.length < 4 ∨ 66 < payload.length) :
    checkWrite s l payload = .error .badRequest := by
  have hnone : parseWrite payload = none := by
    rw [Option.eq_none_iff_forall_ne_some]
    rintro ⟨a, values⟩ hp
    obtain ⟨hlength, h1, h2⟩ := parseWrite_length hp
    omega
  unfold checkWrite; rw [hnone]

theorem checkWrite_badAddress {payload : List Byte} {s : State} {l : LinkId} {a : Nat} {values : List Word}
    (hp : parseWrite payload = some (a, values)) (hr : resolveRun a values.length = none) :
    checkWrite s l payload = .error .badAddress := by
  unfold checkWrite
  rw [hp]
  simp only [hr]

/-- R131, R132: the checks of the values, which come after those of the classes and the lease. -/
def checkValues (s : State) (l : LinkId) (run : List Setting) (values : List Word) : Except ResultCode AcceptedWrite :=
  match writeRun (candidateOf s l) run values with
  | none => .error .outOfRange
  | some k =>
    if combinationsLegal run k then
      (if touchesRing run && overlapsOther s.views l k.own.ringBase k.own.ringLength then .error .overlap
        else .ok { run := run, left := k })
    else .error .outOfRange

section
variable {payload : List Byte} {s : State} {l : LinkId} {a : Nat} {values : List Word} {run : List Setting}

/-- R131: the checks that follow the address check, in order. -/
theorem checkWrite_run (hp : parseWrite payload = some (a, values)) (hr : resolveRun a values.length = some run) :
    checkWrite s l payload =
      if run.any fun x => decide (x.access = .readOnly) then .error .readOnly
      else if (run.any fun x => decide (x.access = .shared)) && decide (s.lease.holder ≠ some l) then .error .noLease
      else checkValues s l run values := by
  unfold checkWrite checkValues
  rw [hp]
  simp only [hr] <;> rfl

theorem any_access_iff {cl : SettingClass} :
    (run.any fun x => decide (x.access = cl)) = true ↔ ∃ x ∈ run, x.access = cl := by
  simp

/-- R131: a write whose class and lease checks pass comes to its values. -/
theorem checkWrite_values (hp : parseWrite payload = some (a, values)) (hr : resolveRun a values.length = some run)
    (hro : ∀ x ∈ run, x.access ≠ .readOnly)
    (hlease : (∀ x ∈ run, x.access ≠ .shared) ∨ s.lease.holder = some l) :
    checkWrite s l payload = checkValues s l run values := by
  rw [checkWrite_run hp hr, if_neg, if_neg]
  · rw [Bool.and_eq_true, any_access_iff, decide_eq_true_iff]
    rintro ⟨⟨x, hx, hshared⟩, hnot⟩
    rcases hlease with hnone | hheld
    · exact hnone x hx hshared
    · exact hnot hheld
  · rw [any_access_iff]
    rintro ⟨x, hx, hread⟩
    exact hro x hx hread

theorem checkValues_illegal (h : writeRun (candidateOf s l) run values = none) :
    checkValues s l run values = .error .outOfRange := by
  unfold checkValues; rw [h]

theorem checkValues_some {k : Candidate} (h : writeRun (candidateOf s l) run values = some k) :
    checkValues s l run values =
      if combinationsLegal run k then
        (if touchesRing run && overlapsOther s.views l k.own.ringBase k.own.ringLength then .error .overlap
          else .ok { run := run, left := k })
      else .error .outOfRange := by
  unfold checkValues; rw [h]

end

theorem runSettingWrite_refused {l : LinkId} {payload : List Byte} {s : State} {code : ResultCode}
    (h : checkWrite s l payload = .error code) :
    runSettingWrite l payload s = sendResult l (.settingWrite payload) code s := by
  unfold runSettingWrite; rw [h]

theorem runSettingWrite_accepted {l : LinkId} {payload : List Byte} {s : State} {w : AcceptedWrite}
    (h : checkWrite s l payload = .ok w) :
    runSettingWrite l payload s = sendResult l (.settingWrite payload) .ok (applyWrite l w s) := by
  unfold runSettingWrite; rw [h]

/-- Settles O32: `checkWrite`, branch by branch. -/
theorem writeChecksRefuseInOrder : Obligations.WriteChecksRefuseInOrder := by
  unfold Obligations.WriteChecksRefuseInOrder
  refine ⟨fun l payload s => ⟨checkWrite_badRequest, fun a values hp => ⟨fun hnone => ?_, fun run hr =>
    ⟨fun hro => ?_, fun hro => ⟨fun hshared hnot => ?_, fun hlease => ?_⟩⟩⟩⟩,
    fun l payload rest s s1 code h hc => ?_⟩
  · exact checkWrite_badAddress hp hnone
  · rw [checkWrite_run hp hr, if_pos (any_access_iff.mpr hro)]
  · rw [checkWrite_run hp hr, if_neg, if_pos]
    · rw [Bool.and_eq_true, any_access_iff, decide_eq_true_iff]
      exact ⟨hshared, hnot⟩
    · rw [any_access_iff]
      rintro ⟨x, hx, hread⟩
      exact hro x hx hread
  · have hvalues := checkWrite_values hp hr hro hlease
    refine ⟨fun hw => ?_, fun k hw => ⟨fun hcomb => ?_, fun hcomb => ⟨fun htouch hover => ?_, fun hclear => ?_⟩⟩⟩
    · rw [hvalues, checkValues_illegal hw]
    · rw [hvalues, checkValues_some hw]
      exact if_neg (by rw [hcomb]; decide)
    · rw [hvalues, checkValues_some hw]
      exact (if_pos hcomb).trans (if_pos (by rw [htouch, hover]; rfl))
    · rw [hvalues, checkValues_some hw]
      refine (if_pos hcomb).trans (if_neg ?_)
      rcases hclear with hc | hc <;> rw [hc] <;> simp
  · refine (exec_commandOf h).trans (congrArg Host.Outcome.next ?_)
    rw [execute_eq_popped]
    show renewLease l (runSettingWrite l payload (popped l rest s1)) = _
    rw [runSettingWrite_refused (s := popped l rest s1) hc]
    rfl

/-! ## An accepted write -/

/-- R122, R131, R133: the state after an accepted write, answered OK, with the writer's lease renewed by the timeout that
the write leaves. -/
def written (l : LinkId) (rest : List Request) (w : AcceptedWrite) (s : State) : State :=
  { applyWrite l w (popped l rest s) with
    links := upd s.links l fun k => { k with queue := rest, tx := .sending (shortReply .result 0x41 0) }
    lease :=
      if s.lease.holder = some l then
        { holder := some l, countdown := .running (100 * w.left.shared.leaseTimeout) }
      else s.lease }

theorem execute_accepted {l : LinkId} {payload : List Byte} {rest : List Request} {s : State} {w : AcceptedWrite}
    (h : checkWrite s l payload = .ok w) : execute l (.settingWrite payload) rest s = written l rest w s := by
  have hlinks : (send l (shortReply .result 0x41 0) (applyWrite l w (popped l rest s))).links =
      upd s.links l fun k => { k with queue := rest, tx := .sending (shortReply .result 0x41 0) } := by
    rw [send_links, (applyWrite_frame l w _).2.2.2.2.1]
    exact upd_upd s.links l (fun k => { k with queue := rest })
      (fun k => { k with tx := .sending (shortReply .result 0x41 0) })
  have hlease : (send l (shortReply .result 0x41 0) (applyWrite l w (popped l rest s))).lease = s.lease :=
    (applyWrite_frame l w (popped l rest s)).2.2.2.1
  have hsettings : (send l (shortReply .result 0x41 0) (applyWrite l w (popped l rest s))).settings = w.left.shared :=
    applyWrite_settings l w (popped l rest s)
  rw [execute_eq_popped]
  show renewLease l (runSettingWrite l payload (popped l rest s)) = _
  rw [runSettingWrite_accepted (s := popped l rest s) h]
  show renewLease l (send l (shortReply .result 0x41 0) (applyWrite l w (popped l rest s))) = _
  have hrenewed : (renewLease l (send l (shortReply .result 0x41 0) (applyWrite l w (popped l rest s)))).lease =
      if s.lease.holder = some l then
        { holder := some l, countdown := .running (100 * w.left.shared.leaseTimeout) }
      else s.lease := by
    by_cases hh : s.lease.holder = some l
    · rw [renewLease_of_holder (by rw [hlease]; exact hh), if_pos hh]
      exact congrArg (fun c => ({ holder := some l, countdown := c } : Lease))
        ((leaseReload_eq _).trans (by rw [hsettings]))
    · rw [renewLease_of_not_holder (by rw [hlease]; exact hh), if_neg hh, hlease]
  rw [renewLease_eq, hrenewed]
  exact State.eq_of_fields rfl rfl rfl rfl rfl rfl rfl rfl rfl rfl rfl rfl rfl hlinks rfl

theorem exec_accepted {l : LinkId} {payload : List Byte} {rest : List Request} {s s1 : State} {w : AcceptedWrite}
    (h : atComposition l (.settingWrite payload) rest s s1) (hw : checkWrite s1 l payload = .ok w) :
    exec (.settingWrite l payload) s = .next (written l rest w s1) :=
  (exec_commandOf h).trans (congrArg Host.Outcome.next (execute_accepted hw))

/-- R133: a command that names what an accepted write changes runs that write. -/
theorem exec_accepted_by_change {i : Instr} {l : LinkId} {payload : List Byte} {rest : List Request} {s s1 : State}
    {w : AcceptedWrite} {change : State → AcceptedWrite → Bool}
    (hi : effect i s = whenOperating l (composeIf l (acceptedWrite l change)) s)
    (h : atComposition l (.settingWrite payload) rest s s1) (hw : checkWrite s1 l payload = .ok w)
    (hc : change s1 w = true) : exec i s = .next (written l rest w s1) := by
  rw [exec_link hi h.1, composeIf_at h (acceptedWrite_eq_true.mpr ⟨payload, w, rfl, hw, hc⟩), execute_accepted hw]

/-! ## What an accepted write leaves alone -/

@[simp] theorem applyEnable_pointer (old new : Settings) (s : State) (c : ChannelId) :
    (applyEnable old new s c).bus.pointer = s.bus.pointer := by
  unfold applyEnable
  split
  · rfl
  · simp [disableChannel]
  · rfl
  · rfl

@[simp] theorem applyEnables_pointer (old new : Settings) (cs : List ChannelId) (s : State) :
    (cs.foldl (applyEnable old new) s).bus.pointer = s.bus.pointer :=
  foldl_keeps (fun s : State => s.bus.pointer) _ (applyEnable_pointer old new) cs s

theorem applyWrite_pointer (l : LinkId) (w : AcceptedWrite) (s : State) :
    (applyWrite l w s).bus.pointer = s.bus.pointer := by
  simp [applyWrite]

/-- A change of enables that disables no channel touches no capture and no ring. -/
theorem applyEnable_of_no_disable {old new : Settings}
    (h : ∀ c : ChannelId, old.channels[c].enable = true → new.channels[c].enable = true) (s : State) (c : ChannelId) :
    (applyEnable old new s c).triggers = s.triggers ∧ (applyEnable old new s c).rings = s.rings ∧
      (applyEnable old new s c).slots = s.slots := by
  unfold applyEnable
  split
  · exact ⟨rfl, rfl, rfl⟩
  · next hold hnew => rw [h c hold] at hnew; cases hnew
  · exact ⟨rfl, rfl, rfl⟩
  · exact ⟨rfl, rfl, rfl⟩

theorem applyEnables_of_no_disable {old new : Settings}
    (h : ∀ c : ChannelId, old.channels[c].enable = true → new.channels[c].enable = true) (cs : List ChannelId)
    (s : State) :
    (cs.foldl (applyEnable old new) s).triggers = s.triggers ∧ (cs.foldl (applyEnable old new) s).rings = s.rings ∧
      (cs.foldl (applyEnable old new) s).slots = s.slots :=
  ⟨foldl_keeps State.triggers _ (fun s c => (applyEnable_of_no_disable h s c).1) cs s,
    foldl_keeps State.rings _ (fun s c => (applyEnable_of_no_disable h s c).2.1) cs s,
    foldl_keeps State.slots _ (fun s c => (applyEnable_of_no_disable h s c).2.2) cs s⟩

/-- R90: a change of a trigger's enable leaves a capture in flight. -/
theorem applyTriggerEnable_capture (old new : Settings) (s : State) (t i : TriggerId) :
    (applyTriggerEnable old new s t).triggers[i].capture = s.triggers[i].capture := by
  unfold applyTriggerEnable
  split
  · exact get_upd_keeps Trigger.capture rfl i
  · exact get_upd_keeps Trigger.capture rfl i
  · rfl
  · rfl

/-- What R14 makes of a channel record: its movement counts and offsets. -/
def Channel.position (ch : Channel) : Word32 × Word32 × Word32 × Word32 :=
  (ch.movementAlong, ch.movementAcross, ch.offsetAlong, ch.offsetAcross)

theorem applyEnable_position (old new : Settings) (s : State) (c d : ChannelId) :
    (applyEnable old new s c).channels[d].position = s.channels[d].position := by
  unfold applyEnable
  split
  · exact get_upd_keeps Channel.position rfl d
  · rw [disableChannel_channels]
    exact get_upd_keeps Channel.position rfl d
  · rfl
  · rfl

theorem applyWrite_position (l : LinkId) (w : AcceptedWrite) (s : State) (c : ChannelId) :
    (applyWrite l w s).channels[c].position = s.channels[c].position := by
  have hchannels : (applyWrite l w s).channels =
      (allChannels.foldl (applyEnable s.settings w.left.shared)
        { applyOwn l w.left.own (applyPlacement l w.run s) with settings := w.left.shared }).channels := by
    simp [applyWrite]
  rw [hchannels, foldl_keeps (fun u : State => u.channels[c].position) _
    (fun u d => applyEnable_position s.settings w.left.shared u d c)]
  simp

theorem applyWrite_capture {l : LinkId} {w : AcceptedWrite} {s : State}
    (h : ∀ c : ChannelId, s.settings.channels[c].enable = true → w.left.shared.channels[c].enable = true)
    (i : TriggerId) : (applyWrite l w s).triggers[i].capture = s.triggers[i].capture := by
  unfold applyWrite
  simp only [(attendAll_frame _).2.2.2.2.2.2.2.2.1, (applyAttentionMode_frame _ _ _).2.2.2.2.2.2.2.2.1]
  rw [foldl_keeps (fun u : State => u.triggers[i].capture) _
    (fun u t => applyTriggerEnable_capture s.settings w.left.shared u t i)]
  simp [(applyEnables_of_no_disable h allChannels _).1]

theorem applyWrite_memory {l : LinkId} {w : AcceptedWrite} {s : State} (hr : touchesRing w.run = false)
    (h : ∀ c : ChannelId, s.settings.channels[c].enable = true → w.left.shared.channels[c].enable = true) :
    (applyWrite l w s).rings = s.rings ∧ (applyWrite l w s).slots = s.slots := by
  unfold applyWrite
  simp only [applyPlacement_none hr]
  exact ⟨by simp [(applyEnables_of_no_disable h allChannels _).2.1],
    by simp [(applyEnables_of_no_disable h allChannels _).2.2]⟩

/-- Settles O33: the state `written`, field by field. -/
theorem acceptedWriteIsHeld : Obligations.AcceptedWriteIsHeld := by
  unfold Obligations.AcceptedWriteIsHeld
  intro l payload rest s s1 w h hw
  have hexec := exec_accepted h hw
  unfold written at hexec
  obtain ⟨hphase, htick, hstraps, -, -, hpending⟩ := applyWrite_frame l w (popped l rest s1)
  have hsettings := applyWrite_settings l w (popped l rest s1)
  have hviews : (applyWrite l w (popped l rest s1)).views = upd s1.views l (View.apply w.left.own) :=
    applyWrite_views l w (popped l rest s1)
  have hpointer := applyWrite_pointer l w (popped l rest s1)
  have hstreak := applyWrite_streak l w (popped l rest s1)
  have hposition := applyWrite_position l w (popped l rest s1)
  have hcapture : (∀ c : ChannelId, s1.settings.channels[c].enable = true → w.left.shared.channels[c].enable = true) →
      ∀ i : TriggerId, (applyWrite l w (popped l rest s1)).triggers[i].capture = s1.triggers[i].capture :=
    fun hno => applyWrite_capture (s := popped l rest s1) hno
  have hmemory : touchesRing w.run = false →
      (∀ c : ChannelId, s1.settings.channels[c].enable = true → w.left.shared.channels[c].enable = true) →
      (applyWrite l w (popped l rest s1)).rings = s1.rings ∧ (applyWrite l w (popped l rest s1)).slots = s1.slots :=
    fun hr hno => applyWrite_memory (s := popped l rest s1) hr hno
  generalize applyWrite l w (popped l rest s1) = u at *
  have hview : u.views[l] = View.apply w.left.own s1.views[l] :=
    (congrArg (fun v : Vector View 4 => v[l]) hviews).trans get_upd_eq
  refine ⟨_, hexec, hsettings, ?views, rfl, rfl, hpointer, hstreak, fun i hno => hcapture hno i,
    fun hb hl hno => hmemory (Bool.eq_false_iff.mpr fun ht => (touchesRing_iff.mp ht).elim hb hl) hno,
    fun c => ?position,
    State.eq_of_fields hphase htick hstraps rfl rfl rfl rfl rfl rfl rfl rfl rfl rfl rfl hpending⟩
  case views =>
    show u.views = upd s1.views l fun v => { v with accounts := u.views[l].accounts, settings := w.left.own }
    rw [hview, hviews]
    exact upd_congr _ _ _ _ rfl
  case position =>
    have hc := hposition c
    simp only [Channel.position, Prod.mk.injEq] at hc
    exact hc

end Sys2Proof.Machine

/-! PROOFS. O34: a written setting reads back at its own address (R130, R132, R164). -/

namespace Sys2Proof.Machine

/-! ## Addresses -/

/-- R164: the address of a setting. The fields of a block are declared in address order. -/
def addressOf : Setting → Nat
  | .global f => f.ctorIdx
  | .channel c f => 0x100 + 0x20 * c.val + f.ctorIdx
  | .trigger t f => 0x200 + 0x10 * t.val + f.ctorIdx
  | .own f => 0x300 + f.ctorIdx

theorem globalField_index {n : Nat} {f : GlobalField} (h : globalField? n = some f) : f.ctorIdx = n := by
  unfold globalField? at h
  split at h <;> cases h <;> rfl

theorem channelField_index {n : Nat} {f : ChannelField} (h : channelField? n = some f) : f.ctorIdx = n := by
  unfold channelField? at h
  split at h <;> cases h <;> rfl

theorem triggerField_index {n : Nat} {f : TriggerField} (h : triggerField? n = some f) : f.ctorIdx = n := by
  unfold triggerField? at h
  split at h <;> cases h <;> rfl

theorem ownField_index {n : Nat} {f : OwnField} (h : ownField? n = some f) : f.ctorIdx = n := by
  unfold ownField? at h
  split at h <;> cases h <;> rfl

/-- R164: no two addresses name one setting. -/
theorem addressOf_resolve {a : Nat} {x : Setting} (h : resolve a = some x) : addressOf x = a := by
  unfold resolve at h
  split at h
  · obtain ⟨f, hf, rfl⟩ := Option.map_eq_some_iff.mp h
    exact globalField_index hf
  · next h1 =>
    split at h
    · next h2 =>
      obtain ⟨f, hf, rfl⟩ := Option.map_eq_some_iff.mp h
      have hindex := channelField_index hf
      show 0x100 + 0x20 * ((a - 0x100) / 0x20 % 8) + f.ctorIdx = a
      omega
    · next h2 =>
      split at h
      · next h3 =>
        obtain ⟨f, hf, rfl⟩ := Option.map_eq_some_iff.mp h
        have hindex := triggerField_index hf
        show 0x200 + 0x10 * ((a - 0x200) / 0x10 % 4) + f.ctorIdx = a
        omega
      · next h3 =>
        split at h
        · cases h
        · next h4 =>
          obtain ⟨f, hf, rfl⟩ := Option.map_eq_some_iff.mp h
          have hindex := ownField_index hf
          show 0x300 + f.ctorIdx = a
          omega

theorem resolveRun_succ {a n : Nat} {run : List Setting} (h : resolveRun a (n + 1) = some run) :
    ∃ x xs, run = x :: xs ∧ resolve a = some x ∧ resolveRun (a + 1) n = some xs := by
  unfold resolveRun at h
  split at h
  · next x xs hx hxs =>
    cases h
    exact ⟨x, xs, rfl, hx, hxs⟩
  · cases h

/-- R131: the settings of a run, by their addresses. -/
theorem resolveRun_get {a n : Nat} {run : List Setting} (h : resolveRun a n = some run) :
    run.length = n ∧ ∀ k < n, run[k]? = resolve (a + k) := by
  induction n generalizing a run with
  | zero => cases h; exact ⟨rfl, fun k hk => absurd hk (Nat.not_lt_zero k)⟩
  | succ n ih =>
    obtain ⟨x, xs, rfl, hx, hxs⟩ := resolveRun_succ h
    obtain ⟨hlength, hget⟩ := ih hxs
    refine ⟨congrArg Nat.succ hlength, fun k hk => ?_⟩
    cases k with
    | zero => exact hx.symm
    | succ k =>
      rw [List.getElem?_cons_succ, hget k (Nat.lt_of_succ_lt_succ hk), Nat.add_right_comm, Nat.add_assoc]

/-- R131: the settings of a run are different, for their addresses are. -/
theorem resolveRun_nodup {a n : Nat} {run : List Setting} (h : resolveRun a n = some run) :
    run.Nodup ∧ ∀ x ∈ run, a ≤ addressOf x := by
  induction n generalizing a run with
  | zero => cases h; exact ⟨List.nodup_nil, fun x hx => by cases hx⟩
  | succ n ih =>
    obtain ⟨x, xs, rfl, hx, hxs⟩ := resolveRun_succ h
    obtain ⟨hnodup, habove⟩ := ih hxs
    have haddress := addressOf_resolve hx
    refine ⟨List.nodup_cons.mpr ⟨fun hin => ?_, hnodup⟩, fun y hy => ?_⟩
    · have := habove x hin
      omega
    · rcases List.mem_cons.mp hy with rfl | hin
      · omega
      · have := habove y hin
        omega

/-! ## Codes read back -/

theorem bitOf_flagOf {n : Nat} {b : Bool} (h : flagOf? n = some b) : bitOf b = n := by
  unfold flagOf? at h
  split at h <;> cases h <;> rfl

theorem forcedTierCode_of {n : Nat} {x : Option Tier} (h : forcedTierOf? n = some x) : forcedTierCode x = n := by
  unfold forcedTierOf? at h
  split at h <;> cases h <;> rfl

theorem edgeSetting_code_of {n : Nat} {x : EdgeSetting} (h : edgeSettingOf? n = some x) : x.code = n := by
  unfold edgeSettingOf? at h
  split at h <;> cases h <;> rfl

theorem captureMode_code_of {n : Nat} {x : CaptureMode} (h : captureModeOf? n = some x) : x.code = n := by
  unfold captureModeOf? at h
  split at h <;> cases h <;> rfl

theorem reportWidth_code_of {n : Nat} {x : ReportWidth} (h : reportWidthOf? n = some x) : x.code = n := by
  unfold reportWidthOf? at h
  split at h <;> cases h <;> rfl

theorem attentionModeCode_of {n : Nat} {x : AttentionMode} (h : attentionModeOf? n = some x) :
    attentionModeCode x = n := by
  unfold attentionModeOf? at h
  split at h <;> cases h <;> rfl

theorem polarityCode_of {n : Nat} {x : Polarity} (h : polarityOf? n = some x) : polarityCode x = n := by
  unfold polarityOf? at h
  split at h <;> cases h <;> rfl

theorem inRange_value {lo hi n x : Nat} (h : inRange? lo hi n = some x) : x = n := (inRange_some h).2.2

/-- A number that a range holds within `w` bits is the number of its bits. -/
theorem toNat_ofNat_inRange {w lo hi n x : Nat} (h : inRange? lo hi n = some x) (hw : hi < 2 ^ w) :
    (BitVec.ofNat w x).toNat = n := by
  obtain ⟨-, hle, rfl⟩ := inRange_some h
  rw [BitVec.toNat_ofNat, Nat.mod_eq_of_lt (by omega)]

/-! ## One write -/

/-- R164: the written field of a channel reads as the number written. -/
theorem readChannel_same {n : Nat} {cs cs' : ChannelSettings} {f : ChannelField} (h : writeChannel n cs f = some cs')
    (ch : Channel) (p : Poll) : readChannel cs' ch p f = wordOf n := by
  cases f <;> simp only [writeChannel, Option.map_eq_some_iff, reduceCtorEq] at h <;> obtain ⟨x, hx, rfl⟩ := h
  case enable => exact congrArg wordOf (bitOf_flagOf hx)
  case expectedId => exact congrArg wordOf (toNat_ofNat_inRange (w := 8) hx (by decide))
  case forcedTier => exact congrArg wordOf (forcedTierCode_of hx)
  all_goals exact congrArg wordOf (inRange_value hx)

theorem readChannel_other {n : Nat} {cs cs' : ChannelSettings} {f g : ChannelField}
    (h : writeChannel n cs f = some cs') (hg : g ≠ f) (ch : Channel) (p : Poll) :
    readChannel cs' ch p g = readChannel cs ch p g := by
  cases f <;> simp only [writeChannel, Option.map_eq_some_iff, reduceCtorEq] at h <;> obtain ⟨x, -, rfl⟩ := h
  all_goals cases g
  any_goals rfl
  all_goals exact absurd rfl hg

theorem readTrigger_same {n : Nat} {ts ts' : TriggerSettings} {f : TriggerField}
    (h : writeTrigger n ts f = some ts') : readTrigger ts' f = wordOf n := by
  cases f <;> simp only [writeTrigger, Option.map_eq_some_iff] at h <;> obtain ⟨x, hx, rfl⟩ := h
  case enable => exact congrArg wordOf (bitOf_flagOf hx)
  case edge => exact congrArg wordOf (edgeSetting_code_of hx)
  case filter => exact congrArg wordOf (inRange_value hx)
  case mode => exact congrArg wordOf (captureMode_code_of hx)
  case mask => exact congrArg wordOf (toNat_ofNat_inRange (w := 8) hx (by decide))

theorem readTrigger_other {n : Nat} {ts ts' : TriggerSettings} {f g : TriggerField}
    (h : writeTrigger n ts f = some ts') (hg : g ≠ f) : readTrigger ts' g = readTrigger ts g := by
  cases f <;> simp only [writeTrigger, Option.map_eq_some_iff] at h <;> obtain ⟨x, -, rfl⟩ := h
  all_goals cases g
  any_goals rfl
  all_goals exact absurd rfl hg

theorem readOwn_same {n : Nat} {vs vs' : ViewSettings} {f : OwnField} (h : writeOwn n vs f = some vs') :
    readOwn vs' f = wordOf n := by
  cases f <;> simp only [writeOwn, Option.map_eq_some_iff] at h <;> obtain ⟨x, hx, rfl⟩ := h
  case mask => exact congrArg wordOf (toNat_ofNat_inRange (w := 8) hx (by decide))
  case width => exact congrArg wordOf (reportWidth_code_of hx)
  case includeAbsolute => exact congrArg wordOf (bitOf_flagOf hx)
  case triggerSelection => exact congrArg wordOf (toNat_ofNat_inRange (w := 4) hx (by decide))
  case attentionMode => exact congrArg wordOf (attentionModeCode_of hx)
  case polarity => exact congrArg wordOf (polarityCode_of hx)
  case sources => exact congrArg wordOf (toNat_ofNat_inRange (w := 4) hx (by decide))
  all_goals exact congrArg wordOf (inRange_value hx)

theorem readOwn_other {n : Nat} {vs vs' : ViewSettings} {f g : OwnField} (h : writeOwn n vs f = some vs')
    (hg : g ≠ f) : readOwn vs' g = readOwn vs g := by
  cases f <;> simp only [writeOwn, Option.map_eq_some_iff] at h <;> obtain ⟨x, -, rfl⟩ := h
  all_goals cases g
  any_goals rfl
  all_goals exact absurd rfl hg

/-- R130, R164: a writable setting as it reads in a candidate. A setting that no write can name reads 0 here. -/
def readCandidate (k : Candidate) : Setting → Word
  | .global .leaseTimeout => wordOf k.shared.leaseTimeout
  | .global _ => 0
  | .channel c f => readChannel k.shared.channels[c] Channel.reset Poll.reset f
  | .trigger t f => readTrigger k.shared.triggers[t] f
  | .own f => readOwn k.own f

theorem wordOf_toNat (v : Word) : wordOf v.toNat = v := by
  unfold wordOf
  rw [BitVec.ofNat_toNat, BitVec.setWidth_eq]

theorem readCandidate_same {k k' : Candidate} {x : Setting} {v : Word} (h : writeOne k x v = some k') :
    readCandidate k' x = v := by
  cases x with
  | global f =>
    cases f <;> simp only [writeOne, Option.map_eq_some_iff, reduceCtorEq] at h
    obtain ⟨m, hm, rfl⟩ := h
    exact (congrArg wordOf (inRange_value hm)).trans (wordOf_toNat v)
  | channel c f =>
    simp only [writeOne, Option.map_eq_some_iff] at h
    obtain ⟨cs, hcs, rfl⟩ := h
    have hput : (put k.shared.channels c cs)[c] = cs := get_put_eq
    simp only [readCandidate, hput]
    exact (readChannel_same hcs _ _).trans (wordOf_toNat v)
  | trigger t f =>
    simp only [writeOne, Option.map_eq_some_iff] at h
    obtain ⟨ts, hts, rfl⟩ := h
    have hput : (put k.shared.triggers t ts)[t] = ts := get_put_eq
    simp only [readCandidate, hput]
    exact (readTrigger_same hts).trans (wordOf_toNat v)
  | own f =>
    simp only [writeOne, Option.map_eq_some_iff] at h
    obtain ⟨vs, hvs, rfl⟩ := h
    exact (readOwn_same hvs).trans (wordOf_toNat v)

theorem readCandidate_other {k k' : Candidate} {x y : Setting} {v : Word} (h : writeOne k x v = some k')
    (hy : y ≠ x) : readCandidate k' y = readCandidate k y := by
  cases x with
  | global f =>
    cases f <;> simp only [writeOne, Option.map_eq_some_iff, reduceCtorEq] at h
    obtain ⟨m, -, rfl⟩ := h
    cases y with
    | global g =>
      cases g with
      | leaseTimeout => exact absurd rfl hy
      | _ => rfl
    | _ => rfl
  | channel c f =>
    simp only [writeOne, Option.map_eq_some_iff] at h
    obtain ⟨cs, hcs, rfl⟩ := h
    cases y with
    | channel d g =>
      by_cases hd : d = c
      · subst hd
        have hput : (put k.shared.channels d cs)[d] = cs := get_put_eq
        simp only [readCandidate, hput]
        exact readChannel_other hcs (fun e => hy (congrArg _ e)) _ _
      · exact congrArg (fun s => readChannel s Channel.reset Poll.reset g) (get_put_ne hd)
    | global g => cases g <;> rfl
    | _ => rfl
  | trigger t f =>
    simp only [writeOne, Option.map_eq_some_iff] at h
    obtain ⟨ts, hts, rfl⟩ := h
    cases y with
    | trigger u g =>
      by_cases hu : u = t
      · subst hu
        have hput : (put k.shared.triggers u ts)[u] = ts := get_put_eq
        simp only [readCandidate, hput]
        exact readTrigger_other hts fun e => hy (congrArg _ e)
      · exact congrArg (fun s => readTrigger s g) (get_put_ne hu)
    | global g => cases g <;> rfl
    | _ => rfl
  | own f =>
    simp only [writeOne, Option.map_eq_some_iff] at h
    obtain ⟨vs, hvs, rfl⟩ := h
    cases y with
    | own g => exact readOwn_other hvs fun e => hy (congrArg _ e)
    | global g => cases g <;> rfl
    | _ => rfl

/-! ## A run -/

/-- R132: each value of a run reads back, for no later write of the run is of the same setting. -/
theorem readCandidate_writeRun {k k' : Candidate} {run : List Setting} {vs : List Word}
    (h : writeRun k run vs = some k') (hn : run.Nodup) {i : Nat} {x : Setting} {v : Word} (hx : run[i]? = some x)
    (hv : vs[i]? = some v) : readCandidate k' x = v := by
  induction run generalizing k vs i with
  | nil => cases hx
  | cons y run ih =>
    cases vs with
    | nil => cases hv
    | cons u vs =>
      obtain ⟨hfresh, hn⟩ := List.nodup_cons.mp hn
      unfold writeRun at h
      split at h
      · next k1 hk1 =>
        cases i with
        | zero =>
          obtain rfl : y = x := Option.some.inj hx
          obtain rfl : u = v := Option.some.inj hv
          exact writeRun_keeps (P := fun j => readCandidate j y = u)
            (fun z hz w j j' hj hP => (readCandidate_other hj fun e : y = z => hfresh (e ▸ hz)).trans hP) h
            (readCandidate_same hk1)
        | succ i => exact ih h hn hx hv
      · cases h

/-- R128, R130: a writable setting reads as the candidate that the state holds. -/
theorem readSetting_writable {s : State} {l : LinkId} {x : Setting} (h : x.access ≠ .readOnly) :
    readSetting s l x = readCandidate (candidateOf s l) x := by
  cases x with
  | global f =>
    cases f with
    | leaseTimeout => rfl
    | _ => exact absurd rfl h
  | channel c f =>
    cases f
    any_goals rfl
    all_goals exact absurd rfl h
  | trigger t f => rfl
  | own f => rfl

theorem candidateOf_written (l : LinkId) (rest : List Request) (w : AcceptedWrite) (s : State) :
    candidateOf (written l rest w s) l = w.left := by
  have hsettings : (written l rest w s).settings = w.left.shared := applyWrite_settings l w (popped l rest s)
  have hviews : (written l rest w s).views = upd s.views l (View.apply w.left.own) :=
    applyWrite_views l w (popped l rest s)
  have hown : (written l rest w s).views[l].settings = w.left.own :=
    (congrArg (fun v : Vector View 4 => v[l].settings) hviews).trans (congrArg View.settings get_upd_eq)
  unfold candidateOf
  rw [hsettings, hown]

/-- Settles O34: each address of the run names its setting, and that reads as it was written. -/
theorem writtenSettingReadsBack : Obligations.WrittenSettingReadsBack := by
  unfold Obligations.WrittenSettingReadsBack
  intro l payload rest s s1 a values w h hp hw
  obtain ⟨a', values', hp', hrun, hwritable, hwrite, -, -⟩ := checkWrite_ok hw
  cases hp.symm.trans hp'
  refine ⟨written l rest w s1, exec_accepted h hw, fun k value hk => ?_⟩
  obtain ⟨hlength, hget⟩ := resolveRun_get hrun
  have hlt : k < values.length := (List.getElem?_eq_some_iff.mp hk).1
  obtain ⟨x, hx⟩ : ∃ x, w.run[k]? = some x := ⟨_, List.getElem?_eq_getElem (by omega)⟩
  refine ⟨x, (hget k hlt).symm.trans hx, ?_⟩
  rw [readSetting_writable (hwritable x (List.mem_of_getElem? hx)), candidateOf_written]
  exact readCandidate_writeRun hwrite (resolveRun_nodup hrun).1 hx hk

end Sys2Proof.Machine

/-! PROOFS. O35 to O38: what an accepted write of a channel's or a trigger's settings does at once (R4, R5, R30, R45,
R47, R48, R90, R99, R102, R112). -/

namespace Sys2Proof.Machine

/-! ## The one channel or trigger of a write -/

section
variable {s : State} {l : LinkId} {w : AcceptedWrite}

/-- R164: a write that changes a channel's settings is a write of that channel. -/
theorem LeftIn.channel_of_ne {c : ChannelId} (h : LeftIn s l w)
    (hne : s.settings.channels[c] ≠ w.left.shared.channels[c]) :
    (∀ x ∈ w.run, ∃ f, x = .channel c f) ∧ w.left.own = s.views[l].settings ∧
      ∃ cs, w.left.shared = { s.settings with channels := put s.settings.channels c cs } := by
  cases h with
  | channel d hrun hown hshared =>
    obtain ⟨cs, hcs⟩ := hshared
    by_cases hd : c = d
    · subst hd; exact ⟨hrun, hown, cs, hcs⟩
    · exact absurd (by rw [hcs]; exact (get_put_ne hd).symm) hne
  | trigger t hrun hown hshared =>
    obtain ⟨ts, hts⟩ := hshared
    exact absurd (by rw [hts]) hne
  | global hrun hown hshared =>
    obtain ⟨n, hn⟩ := hshared
    exact absurd (by rw [hn]) hne
  | own hrun hshared => exact absurd (by rw [hshared]) hne

/-- R164: a write that names a setting of a channel is a write of that channel. -/
theorem LeftIn.channel_of_mem {c : ChannelId} {f : ChannelField} (h : LeftIn s l w)
    (hm : Setting.channel c f ∈ w.run) :
    (∀ x ∈ w.run, ∃ f, x = .channel c f) ∧ w.left.own = s.views[l].settings ∧
      ∃ cs, w.left.shared = { s.settings with channels := put s.settings.channels c cs } := by
  cases h with
  | channel d hrun hown hshared =>
    obtain ⟨g, hg⟩ := hrun _ hm
    cases hg
    exact ⟨hrun, hown, hshared⟩
  | trigger t hrun hown hshared =>
    obtain ⟨g, hg⟩ := hrun _ hm
    cases hg
  | global hrun hown hshared =>
    obtain ⟨g, hg⟩ := hrun _ hm
    cases hg
  | own hrun hshared =>
    obtain ⟨g, hg⟩ := hrun _ hm
    cases hg

/-- R164: a write that changes a trigger's settings is a write of that trigger. -/
theorem LeftIn.trigger_of_ne {t : TriggerId} (h : LeftIn s l w)
    (hne : s.settings.triggers[t] ≠ w.left.shared.triggers[t]) :
    (∀ x ∈ w.run, ∃ f, x = .trigger t f) ∧ w.left.own = s.views[l].settings ∧
      ∃ ts, w.left.shared = { s.settings with triggers := put s.settings.triggers t ts } := by
  cases h with
  | trigger u hrun hown hshared =>
    obtain ⟨ts, hts⟩ := hshared
    by_cases hu : t = u
    · subst hu; exact ⟨hrun, hown, ts, hts⟩
    · exact absurd (by rw [hts]; exact (get_put_ne hu).symm) hne
  | channel c hrun hown hshared =>
    obtain ⟨cs, hcs⟩ := hshared
    exact absurd (by rw [hcs]) hne
  | global hrun hown hshared =>
    obtain ⟨n, hn⟩ := hshared
    exact absurd (by rw [hn]) hne
  | own hrun hshared => exact absurd (by rw [hshared]) hne

end

/-! ## The forced tier -/

/-- R47, R48: a poll after a write that includes its channel's forced tier. -/
def Poll.forced (named : Bool) (old new : Option Tier) (p : Poll) : Poll :=
  if named then
    match new, old with
    | some t, _ => { p with tier := t }
    | none, some _ => { p with idleCount := 0 }
    | none, none => p
  else p

theorem applyForcedTier_eq (run : List Setting) (old new : Settings) (s : State) (c : ChannelId) :
    applyForcedTier run old new s c =
      s.modPoll c (Poll.forced (wrote run (.channel c .forcedTier)) old.channels[c].forcedTier
        new.channels[c].forcedTier) := by
  have hself : s = s.modPoll c fun p => p :=
    State.eq_of_fields rfl rfl rfl rfl rfl (upd_eq_self s.polls c (fun p => p) rfl).symm rfl rfl rfl rfl rfl rfl rfl rfl rfl
  unfold applyForcedTier Poll.forced
  cases wrote run (.channel c .forcedTier) with
  | false => exact hself
  | true =>
    cases new.channels[c].forcedTier with
    | some t => rfl
    | none =>
      cases old.channels[c].forcedTier with
      | some t => rfl
      | none => exact hself

/-- R47, R48: a forced tier does not touch the flags or the countdown. -/
theorem Poll.forced_flags (named : Bool) (old new : Option Tier) (p : Poll) :
    (p.forced named old new).due = p.due ∧ (p.forced named old new).priority = p.priority ∧
      (p.forced named old new).countdown = p.countdown := by
  unfold Poll.forced
  split
  · split <;> exact ⟨rfl, rfl, rfl⟩
  · exact ⟨rfl, rfl, rfl⟩

/-- R4, R5, R47, R48: a write of one channel's settings. -/
theorem applyWrite_ofChannel {s : State} {l : LinkId} {w : AcceptedWrite} {c : ChannelId}
    (h : (∀ x ∈ w.run, ∃ f, x = .channel c f) ∧ w.left.own = s.views[l].settings ∧
      ∃ cs, w.left.shared = { s.settings with channels := put s.settings.channels c cs }) :
    applyWrite l w s = attendAll
      ((applyEnable s.settings w.left.shared { s with settings := w.left.shared } c).modPoll c
        (Poll.forced (wrote w.run (.channel c .forcedTier)) s.settings.channels[c].forcedTier
          w.left.shared.channels[c].forcedTier)) := by
  obtain ⟨hrun, hown, cs, hcs⟩ := h
  rw [applyWrite_channel hrun hown hcs, applyForcedTier_eq]

theorem applyEnable_enables {old new : Settings} {s : State} {c : ChannelId} (h0 : old.channels[c].enable = false)
    (h1 : new.channels[c].enable = true) : applyEnable old new s c = enableChannel c s := by
  unfold applyEnable; rw [h0, h1]

theorem applyEnable_disables {old new : Settings} {s : State} {c : ChannelId} (h1 : old.channels[c].enable = true)
    (h0 : new.channels[c].enable = false) : applyEnable old new s c = disableChannel c s := by
  unfold applyEnable; rw [h1, h0]

/-- Settles O35: `enableChannel`, before the forced tier and the attention. -/
theorem channelEnableStartsIdentification : Obligations.ChannelEnableStartsIdentification := by
  unfold Obligations.ChannelEnableStartsIdentification
  intro l c payload rest s s1 w h hw h0 h1
  have hexec := exec_accepted_by_change (i := .channelEnable l c) rfl h hw (enablesChannel_eq.mpr ⟨h0, h1⟩)
  have hone := LeftIn.channel_of_ne (c := c) (leftIn_of_ok (s := popped l rest s1) hw)
    (fun e => absurd (h0.symm.trans ((congrArg ChannelSettings.enable e).trans h1)) (by decide))
  unfold written at hexec
  rw [applyWrite_ofChannel hone, applyEnable_enables (old := (popped l rest s1).settings) h0 h1] at hexec
  generalize wrote w.run (.channel c .forcedTier) = named at hexec
  have hpolls : (upd (upd s1.polls c fun p => { p with due := true }) c
      (Poll.forced named s1.settings.channels[c].forcedTier w.left.shared.channels[c].forcedTier))[c] =
      Poll.forced named s1.settings.channels[c].forcedTier w.left.shared.channels[c].forcedTier
        { s1.polls[c] with due := true } := by
    rw [get_upd_eq, get_upd_eq]
  obtain ⟨hdue, hpriority, hcountdown⟩ := Poll.forced_flags named s1.settings.channels[c].forcedTier
    w.left.shared.channels[c].forcedTier { s1.polls[c] with due := true }
  rw [← hpolls] at hdue hpriority hcountdown
  exact ⟨_, hexec, rfl, hdue, hcountdown, hpriority, fun d hd => (get_upd_ne hd).trans (get_upd_ne hd), rfl, rfl, rfl⟩

/-- R5, R30, R45, R99: what a disable does before its completed captures are handed over. -/
def stoppedChannel (c : ChannelId) (s : State) : State :=
  { (s.modChannel c Channel.disabled).modPoll c Poll.disabled with bus := markDiscard c s.bus }

theorem disableChannel_eq (c : ChannelId) (s : State) :
    disableChannel c s = finishCaptures (fillEntries EntryStage.waiting c .stale (stoppedChannel c s)) := rfl

/-- R99: the entries that a disable fills, written out. -/
theorem disableFills_capture (c : ChannelId) (s : State) (i : TriggerId) :
    (fillEntries EntryStage.waiting c .stale (stoppedChannel c s)).triggers[i].capture =
      s.triggers[i].capture.map fun cap =>
        { cap with
          entries := cap.entries.map fun en =>
            if en.channel = c ∧ en.stage.waiting = true then
              { en with
                stage := .filled .stale (s.channels[c].movementAlong + s.channels[c].offsetAlong)
                  (s.channels[c].movementAcross + s.channels[c].offsetAcross) }
            else en } := by
  have hchannel : (stoppedChannel c s).channels[c] = s.channels[c].disabled := get_upd_eq
  rw [fillEntries_triggers, hchannel]
  rfl

/-- R99, R102, R112: the captures at a disable. -/
theorem disableChannel_captures (c : ChannelId) (s : State) :
    ∃ filled : TriggerId → Option Capture,
      (∀ i : TriggerId, filled i = s.triggers[i].capture.map fun cap =>
        { cap with
          entries := cap.entries.map fun en =>
            if en.channel = c ∧ en.stage.waiting = true then
              { en with
                stage := .filled .stale (s.channels[c].movementAlong + s.channels[c].offsetAlong)
                  (s.channels[c].movementAcross + s.channels[c].offsetAcross) }
            else en }) ∧
      (∀ i : TriggerId, (disableChannel c s).triggers[i] =
        { s.triggers[i] with capture := stillInFlight (filled i) }) ∧
      (ringsDisjoint s → ∃ rs, finishedRecords filled rs ∧ handsOver rs s (disableChannel c s)) := by
  obtain ⟨hleft, hhands⟩ := fillAndFinish_spec EntryStage.waiting c .stale (stoppedChannel c s)
  rw [disableChannel_eq]
  refine ⟨_, disableFills_capture c s, hleft, fun hd => ?_⟩
  obtain ⟨rs, hrs, hho⟩ := hhands (ringsDisjoint_congr (fun _ => rfl) hd)
  exact ⟨rs, hrs, handsOver_from hho rfl rfl fun _ => rfl⟩

theorem markDiscard_eq (c : ChannelId) (b : Bus) :
    markDiscard c b =
      { b with exchange := b.exchange.map fun e => if e.channel = c then { e with discard := true } else e } := by
  have hexchange := markDiscard_exchange c b
  have hpointer := markDiscard_pointer c b
  have hstreak := markDiscard_streak c b
  generalize markDiscard c b = x at *
  cases x
  simp only at hexchange hpointer hstreak
  rw [hexchange, hpointer, hstreak]

/-- Settles O36: `disableChannel`, before the forced tier and the attention. -/
theorem channelDisableStopsTheChannel : Obligations.ChannelDisableStopsTheChannel := by
  unfold Obligations.ChannelDisableStopsTheChannel
  intro l c payload rest s s1 w h hw h1 h0
  have hexec := exec_accepted_by_change (i := .channelDisable l c) rfl h hw (disablesChannel_eq.mpr ⟨h1, h0⟩)
  have hone := LeftIn.channel_of_ne (c := c) (leftIn_of_ok (s := popped l rest s1) hw)
    (fun e => absurd (h1.symm.trans ((congrArg ChannelSettings.enable e).trans h0)) (by decide))
  unfold written at hexec
  rw [applyWrite_ofChannel hone, applyEnable_disables (old := (popped l rest s1).settings) h1 h0] at hexec
  generalize wrote w.run (.channel c .forcedTier) = named at hexec
  obtain ⟨hphase, htick, hstraps, hsettings, hviews, -, -, -, hpending⟩ :=
    disableChannel_frame c { popped l rest s1 with settings := w.left.shared }
  have hchannels := disableChannel_channels c { popped l rest s1 with settings := w.left.shared }
  have hpolls := disableChannel_polls c { popped l rest s1 with settings := w.left.shared }
  have hbus := (disableChannel_bus c { popped l rest s1 with settings := w.left.shared }).trans (markDiscard_eq c s1.bus)
  obtain ⟨filled, hfilled, hleft, hhands⟩ :=
    disableChannel_captures c { popped l rest s1 with settings := w.left.shared }
  generalize disableChannel c { popped l rest s1 with settings := w.left.shared } = u at *
  have hpoll : (upd u.polls c (Poll.forced named s1.settings.channels[c].forcedTier
      w.left.shared.channels[c].forcedTier))[c] =
      Poll.forced named s1.settings.channels[c].forcedTier w.left.shared.channels[c].forcedTier
        s1.polls[c].disabled := by
    rw [hpolls, get_upd_eq, get_upd_eq]
    rfl
  obtain ⟨hdue, hpriority, hcountdown⟩ := Poll.forced_flags named s1.settings.channels[c].forcedTier
    w.left.shared.channels[c].forcedTier s1.polls[c].disabled
  rw [← hpoll] at hdue hpriority hcountdown
  refine ⟨_, hexec, hchannels, hdue, hpriority, hcountdown, fun d hd => ?_, hbus,
    ⟨filled, hfilled, hleft, fun hdis => ?_⟩, rfl, hsettings,
    State.eq_of_fields hphase htick hstraps rfl rfl rfl rfl hviews rfl rfl rfl rfl rfl rfl hpending⟩
  · refine (get_upd_ne hd).trans ?_
    rw [hpolls]
    exact get_upd_ne hd
  · obtain ⟨rs, hrs, hho⟩ := hhands (ringsDisjoint_congr (fun _ => rfl) hdis)
    exact ⟨rs, hrs, handsOver_of_rings (handsOver_from hho rfl rfl fun _ => rfl) rfl rfl⟩

/-! ## Forced tiers -/

/-- R4, R5, R45: a change of enable touches no tier and no idle count. -/
theorem applyEnable_tier (old new : Settings) (s : State) (c d : ChannelId) :
    (applyEnable old new s c).polls[d].tier = s.polls[d].tier ∧
      (applyEnable old new s c).polls[d].idleCount = s.polls[d].idleCount := by
  unfold applyEnable
  split
  · exact ⟨get_upd_keeps Poll.tier rfl d, get_upd_keeps Poll.idleCount rfl d⟩
  · rw [disableChannel_polls]
    exact ⟨get_upd_keeps Poll.tier rfl d, get_upd_keeps Poll.idleCount rfl d⟩
  · exact ⟨rfl, rfl⟩
  · exact ⟨rfl, rfl⟩

/-- Settles O37: the forced tier after the enable, by what the write leaves. -/
theorem forcedTierActsAtOnce : Obligations.ForcedTierActsAtOnce := by
  unfold Obligations.ForcedTierActsAtOnce
  intro l c payload rest s s1 w h hw hmem
  have hone := LeftIn.channel_of_mem (leftIn_of_ok (s := popped l rest s1) hw) hmem
  have hnamed : wrote w.run (.channel c .forcedTier) = true := decide_eq_true hmem
  obtain ⟨htier, hidle⟩ := applyEnable_tier (popped l rest s1).settings w.left.shared
    { popped l rest s1 with settings := w.left.shared } c c
  have hsettings := (applyEnable_frame (popped l rest s1).settings w.left.shared
    { popped l rest s1 with settings := w.left.shared } c).2.2.2.1
  have hsame : w.left.shared.channels[c].enable = s1.settings.channels[c].enable →
      applyEnable (popped l rest s1).settings w.left.shared { popped l rest s1 with settings := w.left.shared } c =
        { popped l rest s1 with settings := w.left.shared } := fun he => applyEnable_same he.symm
  have happly := applyWrite_ofChannel hone
  rw [hnamed] at happly
  refine ⟨fun tier hforced => ?_, fun old hold hforced => ?_⟩
  · have hexec := exec_accepted_by_change (i := .forcedTierSet l c tier) rfl h hw (setsForcedTier_eq.mpr ⟨hmem, hforced⟩)
    unfold written at hexec
    rw [happly, hforced] at hexec
    generalize applyEnable (popped l rest s1).settings w.left.shared
      { popped l rest s1 with settings := w.left.shared } c = u at *
    have hpoll : (upd u.polls c (Poll.forced true (popped l rest s1).settings.channels[c].forcedTier (some tier)))[c] =
        { u.polls[c] with tier := tier } := get_upd_eq
    refine ⟨_, hexec, congrArg Poll.tier hpoll, (congrArg Poll.idleCount hpoll).trans hidle, fun he => ?_, hsettings⟩
    rw [hsame he]
    exact ⟨rfl, rfl⟩
  · have hexec := exec_accepted_by_change (i := .forcedTierRelease l c) rfl h hw
      (releasesForcedTier_eq.mpr ⟨hmem, fun hn => Option.some_ne_none old (hold.symm.trans hn), hforced⟩)
    have hstart : (popped l rest s1).settings.channels[c].forcedTier = some old := hold
    unfold written at hexec
    rw [happly, hforced, hstart] at hexec
    generalize applyEnable (popped l rest s1).settings w.left.shared
      { popped l rest s1 with settings := w.left.shared } c = u at *
    have hpoll : (upd u.polls c (Poll.forced true (some old) none))[c] = { u.polls[c] with idleCount := 0 } :=
      get_upd_eq
    refine ⟨_, hexec, (congrArg Poll.tier hpoll).trans htier, congrArg Poll.idleCount hpoll, fun he => ?_, hsettings⟩
    rw [hsame he]
    exact ⟨rfl, rfl⟩

/-! ## A trigger's watch -/

theorem applyTriggerEnable_enables {old new : Settings} {s : State} {i : TriggerId}
    (h0 : old.triggers[i].enable = false) (h1 : new.triggers[i].enable = true) :
    applyTriggerEnable old new s i = s.modTrigger i Trigger.start := by
  unfold applyTriggerEnable; rw [h0, h1]

theorem applyTriggerEnable_disables {old new : Settings} {s : State} {i : TriggerId}
    (h1 : old.triggers[i].enable = true) (h0 : new.triggers[i].enable = false) :
    applyTriggerEnable old new s i = s.modTrigger i Trigger.stop := by
  unfold applyTriggerEnable; rw [h1, h0]

/-- Settles O38: the write is one of that trigger alone, so nothing else moves. -/
theorem triggerEnableStartsAndStopsTheWatch : Obligations.TriggerEnableStartsAndStopsTheWatch := by
  unfold Obligations.TriggerEnableStartsAndStopsTheWatch
  intro l i payload rest s s1 w h hw
  have hone := LeftIn.trigger_of_ne (t := i) (leftIn_of_ok (s := popped l rest s1) hw)
  refine ⟨fun h0 h1 => ?_, fun h1 h0 => ?_⟩
  · obtain ⟨hrun, hown, ts, hts⟩ := hone
      fun e => absurd (h0.symm.trans ((congrArg TriggerSettings.enable e).trans h1)) (by decide)
    have hexec := exec_accepted_by_change (i := .triggerEnable l i) rfl h hw (enablesTrigger_eq.mpr ⟨h0, h1⟩)
    unfold written at hexec
    rw [applyWrite_trigger hrun hown hts,
      applyTriggerEnable_enables (old := (popped l rest s1).settings) h0 h1] at hexec
    exact ⟨_, hexec, rfl, rfl, rfl⟩
  · obtain ⟨hrun, hown, ts, hts⟩ := hone
      fun e => absurd (h1.symm.trans ((congrArg TriggerSettings.enable e).trans h0)) (by decide)
    have hexec := exec_accepted_by_change (i := .triggerDisable l i) rfl h hw (disablesTrigger_eq.mpr ⟨h1, h0⟩)
    unfold written at hexec
    rw [applyWrite_trigger hrun hown hts,
      applyTriggerEnable_disables (old := (popped l rest s1).settings) h1 h0] at hexec
    exact ⟨_, hexec, rfl, rfl, rfl⟩

end Sys2Proof.Machine

/-! PROOFS. O39 to O41: what an accepted write of a view's own settings does at once (R57, R69, R108, R110). -/

namespace Sys2Proof.Machine

section
variable {s : State} {l : LinkId} {w : AcceptedWrite}

/-! ## The one view of a write -/

/-- R164: a write that changes the writer's own settings is a write of them alone. -/
theorem LeftIn.own_of_ne (h : LeftIn s l w) (hne : w.left.own ≠ s.views[l].settings) :
    (∀ x ∈ w.run, ∃ f, x = .own f) ∧ w.left.shared = s.settings := by
  cases h with
  | channel c hrun hown hshared => exact absurd hown hne
  | trigger t hrun hown hshared => exact absurd hown hne
  | global hrun hown hshared => exact absurd hown hne
  | own hrun hshared => exact ⟨hrun, hshared⟩

/-- R164: a write that names one of the writer's own settings is a write of them alone. -/
theorem LeftIn.own_of_mem {f : OwnField} (h : LeftIn s l w) (hm : Setting.own f ∈ w.run) :
    (∀ x ∈ w.run, ∃ f, x = .own f) ∧ w.left.shared = s.settings := by
  cases h with
  | channel c hrun hown hshared =>
    obtain ⟨g, hg⟩ := hrun _ hm
    cases hg
  | trigger t hrun hown hshared =>
    obtain ⟨g, hg⟩ := hrun _ hm
    cases hg
  | global hrun hown hshared =>
    obtain ⟨g, hg⟩ := hrun _ hm
    cases hg
  | own hrun hshared => exact ⟨hrun, hshared⟩

/-! ## What such a write leaves -/

/-- R133: the registers after a write of the writer's own settings, before the attention. -/
def ownApplied (l : LinkId) (w : AcceptedWrite) (s : State) : State := applyOwn l w.left.own (applyPlacement l w.run s)

theorem applyPlacement_eq (l : LinkId) (run : List Setting) (s : State) :
    applyPlacement l run s =
      { s with slots := (applyPlacement l run s).slots, rings := (applyPlacement l run s).rings } := by
  unfold applyPlacement
  split <;> rfl

theorem applyAttentionMode_eq (l : LinkId) (before : AttentionMode) (s : State) :
    applyAttentionMode l before s = { s with attention := (applyAttentionMode l before s).attention } := by
  unfold applyAttentionMode
  split <;> rfl

theorem ownApplied_eq (l : LinkId) (w : AcceptedWrite) (s : State) :
    ownApplied l w s =
      { s with
        views := upd s.views l (View.apply w.left.own)
        slots := (applyPlacement l w.run s).slots
        rings := (applyPlacement l w.run s).rings } := by
  unfold ownApplied
  rw [applyPlacement_eq]
  rfl

/-- R133: a write of the writer's own settings, by what it leaves. -/
theorem applyWrite_ofOwn (h : (∀ x ∈ w.run, ∃ f, x = .own f) ∧ w.left.shared = s.settings) :
    applyWrite l w s =
      { s with
        views := upd s.views l (View.apply w.left.own)
        slots := (applyPlacement l w.run s).slots
        rings := (applyPlacement l w.run s).rings
        attention := (attendAll (applyAttentionMode l s.views[l].settings.attentionMode (ownApplied l w s))).attention } := by
  rw [applyWrite_own h.1 h.2]
  change { applyAttentionMode l s.views[l].settings.attentionMode (ownApplied l w s) with
    attention := (attendAll (applyAttentionMode l s.views[l].settings.attentionMode (ownApplied l w s))).attention } = _
  generalize (attendAll (applyAttentionMode l s.views[l].settings.attentionMode (ownApplied l w s))).attention = att
  rw [applyAttentionMode_eq, ownApplied_eq]

end

/-- R57: the accounts after a change of the subscription mask. -/
theorem View.apply_account {own : ViewSettings} {v : View} (h : own.mask ≠ v.settings.mask) (c : ChannelId) :
    (v.apply own).accounts[c] =
      if own.mask.getLsbD c.val then (if v.settings.mask.getLsbD c.val then v.accounts[c] else some Account.created)
      else none := by
  unfold View.apply
  dsimp only
  rw [if_neg h]
  exact get_tab8 (fun c => if own.mask.getLsbD c.val then (if v.subscribed c then v.accounts[c] else some Account.created)
    else none) c.1 c.2

/-- Settles O39: `resubscribe`, channel by channel. -/
theorem subscriptionChangeMakesAndRemovesAccounts : Obligations.SubscriptionChangeMakesAndRemovesAccounts := by
  unfold Obligations.SubscriptionChangeMakesAndRemovesAccounts
  intro l payload rest s s1 w h hw hne
  have hexec := exec_accepted_by_change (i := .subscriptionChange l w.left.own.mask) rfl h hw
    (changesMask_eq.mpr ⟨fun e => hne e.symm, rfl⟩)
  have hown := LeftIn.own_of_ne (leftIn_of_ok (s := popped l rest s1) hw)
    fun e => hne (congrArg ViewSettings.mask e)
  unfold written at hexec
  rw [applyWrite_ofOwn hown] at hexec
  have hview : (upd s1.views l (View.apply w.left.own))[l] = s1.views[l].apply w.left.own := get_upd_eq
  have haccount := View.apply_account (v := s1.views[l]) hne
  rw [← hview] at haccount
  refine ⟨_, hexec, fun c => ⟨fun h0 h1 => ?_, fun h0 => ?_, fun h1 h1' => ?_⟩, ?_, ?_⟩
  · refine (haccount c).trans ?_
    rw [if_pos h1, h0]
    rfl
  · refine (haccount c).trans ?_
    rw [h0]
    rfl
  · refine (haccount c).trans ?_
    rw [if_pos h1', if_pos h1]
  · refine upd_congr _ _ _ _ ?_
    show _ = { s1.views[l] with accounts := (upd s1.views l (View.apply w.left.own))[l].accounts, settings := w.left.own }
    rw [hview]
    rfl
  · exact State.eq_of_fields rfl rfl rfl rfl rfl rfl rfl rfl rfl rfl rfl rfl rfl rfl rfl

/-! ## The ring -/

theorem applyPlacement_empties {l : LinkId} {run : List Setting} {s : State} (h : touchesRing run = true) :
    applyPlacement l run s = emptyRing l s := by
  unfold applyPlacement; rw [if_pos h]

theorem emptyRing_upd (l : LinkId) (s : State) :
    (emptyRing l s).rings = upd s.rings l fun g => { g with head := 0, count := 0, dropped := 0 } := rfl

/-- R108: a placement in range ends within the capture memory. -/
theorem placementInRange_bound {base length : Nat} (h : placementInRange base length = true) : base + length ≤ 16 := by
  unfold placementInRange Config.units at h
  simp only [Bool.and_eq_true, decide_eq_true_eq] at h
  exact h.2

/-- R108: placements that share no slot of 8 to the unit. -/
theorem placementsShare_false {base length base' length' n : Nat} (h : placementsShare base length base' length' = false)
    (hlow : 8 * base ≤ n) (hhigh : n < 8 * (base + length)) : ¬(8 * base' ≤ n ∧ n < 8 * (base' + length')) := by
  rintro ⟨hlow', hhigh'⟩
  have hall : placementsShare base length base' length' = true := by
    unfold placementsShare
    simp only [Bool.and_eq_true, decide_eq_true_eq]
    omega
  rw [h] at hall
  exact Bool.false_ne_true hall

/-- R110, R131: a run that places the ring passed the range check and the overlap check. -/
theorem checkWrite_placement {s : State} {l : LinkId} {p : List Byte} {w : AcceptedWrite} (hw : checkWrite s l p = .ok w)
    (ht : touchesRing w.run = true) :
    placementInRange w.left.own.ringBase w.left.own.ringLength = true ∧
      ∀ u : LinkId, u ≠ l → placementsShare w.left.own.ringBase w.left.own.ringLength
        s.views[u].settings.ringBase s.views[u].settings.ringLength = false := by
  obtain ⟨a, values, -, -, -, -, hcomb, hover⟩ := checkWrite_ok hw
  refine ⟨?_, fun u hu => not_overlapsOther (hover ht) hu⟩
  unfold combinationsLegal at hcomb
  rw [ht] at hcomb
  exact (Bool.and_eq_true_iff.1 hcomb).2

/-- Settles O40: `emptyRing` for an accepted placement, and the checks that it passed. -/
theorem ringPlacementEmptiesTheRing : Obligations.RingPlacementEmptiesTheRing := by
  unfold Obligations.RingPlacementEmptiesTheRing
  intro l payload rest s s1 w h hw hmem
  have hexec := exec_accepted_by_change (i := .ringPlacement l w.left.own.ringBase w.left.own.ringLength) rfl h hw
    (placesRing_eq.mpr ⟨hmem, rfl, rfl⟩)
  have hleft := leftIn_of_ok (s := popped l rest s1) hw
  have hown := hmem.elim hleft.own_of_mem hleft.own_of_mem
  have htouches := touchesRing_iff.mpr hmem
  obtain ⟨hrange, hclear⟩ := checkWrite_placement hw htouches
  unfold written at hexec
  rw [applyWrite_ofOwn (s := popped l rest s1) hown, applyPlacement_empties htouches] at hexec
  have hslots : (emptyRing l (popped l rest s1)).slots = clearSlots s1.slots (headSlots s1 l s1.rings[l].count) := rfl
  obtain ⟨hcleared, hkept⟩ := readSlot_clearHead (s := s1) (v := l) (m := s1.rings[l].count)
  rw [← hslots] at hcleared hkept
  have hview : (upd s1.views l (View.apply w.left.own))[l] = s1.views[l].apply w.left.own := get_upd_eq
  exact ⟨_, hexec, emptyRing_upd l (popped l rest s1), hcleared, hkept, congrArg View.settings hview,
    placementInRange_bound hrange, fun v hv n hlow hhigh => placementsShare_false (hclear v hv) hlow hhigh,
    State.eq_of_fields rfl rfl rfl rfl rfl rfl rfl rfl rfl rfl rfl rfl rfl rfl rfl⟩

/-! ## Attention -/

/-- R147: a request that is executed found its link operating, and the composition leaves it so. -/
theorem operating_of_atComposition {l : LinkId} {r : Request} {rest : List Request} {s s1 : State}
    (h : atComposition l r rest s s1) : operating s1 l = true := by
  obtain ⟨hphase, -, hstraps, -⟩ := compositionState_frame h.2.1
  have ho := h.1
  unfold operating linkEnabled at ho ⊢
  rw [hphase, hstraps]
  exact ho

section
variable (l : LinkId) (before : AttentionMode) (u : State)

theorem attend_applyAttentionMode_condition :
    (attendAll (applyAttentionMode l before u)).attention[l].condition = attentionCondition u l := by
  rw [applyAttentionMode_eq, attendAll_attention]
  rfl

theorem attend_applyAttentionMode_line : (attendAll (applyAttentionMode l before u)).attention[l].line =
    .output (lineLevel u l (attentionCondition u l) (attendAll (applyAttentionMode l before u)).attention[l].timer) := by
  rw [applyAttentionMode_eq, attendAll_line]
  rfl

/-- R69: a change of mode leaves the timer quiet: the condition as it then stands is no rise. -/
theorem attend_applyAttentionMode_changed (h : u.views[l].settings.attentionMode ≠ before) :
    (attendAll (applyAttentionMode l before u)).attention[l].timer = .quiet := by
  unfold applyAttentionMode
  rw [if_neg h, attendAll_timer, State.modAttention_attention, get_upd_eq]
  cases hm : u.views[l].settings.attentionMode with
  | off => exact timerAfter_of_not_pulse (by rw [State.modAttention_views, hm]; decide)
  | level => exact timerAfter_of_not_pulse (by rw [State.modAttention_views, hm]; decide)
  | pulse =>
    rw [State.modAttention_views, hm]
    exact timerAfter_stay (a := { u.attention[l] with
      condition := attentionCondition u l, timer := .quiet, tickOwed := false }) (Bool.eq_false_or_eq_true _)

/-- R68, R69: under a pulse mode that is kept, the timer moves by a false-to-true change alone. -/
theorem attend_applyAttentionMode_pulse (h : u.views[l].settings.attentionMode = .pulse) (hb : before = .pulse) :
    (attendAll (applyAttentionMode l before u)).attention[l].timer =
      if u.attention[l].condition = false ∧ attentionCondition u l = true then u.attention[l].timer.rise
      else u.attention[l].timer := by
  rw [applyAttentionMode_same (h.trans hb.symm), attendAll_timer, h]
  split
  · next hrise => exact timerAfter_rise hrise.1 hrise.2
  · next hstay =>
    refine timerAfter_stay ?_
    cases hc : u.attention[l].condition with
    | true => exact .inl rfl
    | false => exact .inr (Bool.eq_false_iff.2 fun hn => hstay ⟨hc, hn⟩)

end

/-- Settles O41: `applyAttentionMode`, and the evaluation of attention after it. -/
theorem attentionSettingsActAtOnce : Obligations.AttentionSettingsActAtOnce := by
  unfold Obligations.AttentionSettingsActAtOnce
  intro l payload rest s s1 w h hw hmem
  have hexec := exec_accepted_by_change
    (i := .attentionSettingsWrite l w.left.own.attentionMode w.left.own.polarity w.left.own.sources) rfl h hw
    (writesAttention_eq.mpr ⟨hmem, rfl, rfl, rfl⟩)
  have hleft := leftIn_of_ok (s := popped l rest s1) hw
  have hown := hmem.elim hleft.own_of_mem fun hm => hm.elim hleft.own_of_mem hleft.own_of_mem
  unfold written at hexec
  rw [applyWrite_ofOwn (s := popped l rest s1) hown] at hexec
  have hview : (ownApplied l w (popped l rest s1)).views[l] = s1.views[l].apply w.left.own := by
    rw [ownApplied_eq]
    exact get_upd_eq
  have hstart : (ownApplied l w (popped l rest s1)).attention = s1.attention := by
    rw [ownApplied_eq]
    rfl
  have hlevel : ∀ condition timer, lineLevel (ownApplied l w (popped l rest s1)) l condition timer =
      polarityLevel w.left.own.polarity (lineActive w.left.own.attentionMode condition timer) := fun condition timer => by
    have henabled : linkEnabled (ownApplied l w (popped l rest s1)) l = true := by
      rw [ownApplied_eq]
      exact linkEnabled_of_operating (s := s1) (operating_of_atComposition h)
    rw [lineLevel_of_enabled henabled, hview]
    rfl
  have hnow : attentionCondition (ownApplied l w (popped l rest s1)) l =
      conditionOf s1.channels (upd s1.views l (View.apply w.left.own))[l]
        (applyPlacement l w.run (popped l rest s1)).rings[l] := by
    rw [ownApplied_eq]
    rfl
  have hcondition := attend_applyAttentionMode_condition l (popped l rest s1).views[l].settings.attentionMode
    (ownApplied l w (popped l rest s1))
  have hline := attend_applyAttentionMode_line l (popped l rest s1).views[l].settings.attentionMode
    (ownApplied l w (popped l rest s1))
  have hchanged := attend_applyAttentionMode_changed l (popped l rest s1).views[l].settings.attentionMode
    (ownApplied l w (popped l rest s1))
  have hpulse := attend_applyAttentionMode_pulse l (popped l rest s1).views[l].settings.attentionMode
    (ownApplied l w (popped l rest s1))
  rw [hlevel] at hline
  rw [hview] at hchanged hpulse
  rw [hstart] at hpulse
  rw [hnow] at hcondition hline hpulse
  generalize (attendAll (applyAttentionMode l (popped l rest s1).views[l].settings.attentionMode
    (ownApplied l w (popped l rest s1)))).attention = att at *
  refine ⟨_, hexec, congrArg View.settings (get_upd_eq : (upd s1.views l (View.apply w.left.own))[l] = _), hcondition,
    hchanged, fun hm => ?_, fun hm => ?_, fun hm => ⟨?_, fun hb => hpulse hm hb⟩,
    State.eq_of_fields rfl rfl rfl rfl rfl rfl rfl rfl rfl rfl rfl rfl rfl rfl rfl⟩
  · refine hline.trans ?_
    rw [hm]
    rfl
  · refine hline.trans ?_
    rw [hm]
    rfl
  · refine hline.trans ?_
    rw [hm, lineActive, PulseTimer.active_eq]

end Sys2Proof.Machine

/-! PROOFS. O42: PRESET (R15, R134). -/

namespace Sys2Proof.Machine

/-! ## The operands -/

theorem parsePreset_of_length_ne {payload : List Byte} (h : payload.length ≠ 10) : parsePreset payload = none := by
  unfold parsePreset
  split
  · exact absurd rfl h
  · rfl

/-- R134: a channel number that a frame carries. -/
theorem channelOf?_ofNat {b : Byte} {c : ChannelId} (h : b = BitVec.ofNat 8 c.val) : channelOf? b = some c := by
  subst h
  have hval : (BitVec.ofNat 8 c.val).toNat = c.val := by
    rw [BitVec.toNat_ofNat]
    exact Nat.mod_eq_of_lt (by omega)
  unfold channelOf?
  rw [dif_pos (by rw [hval]; exact c.2)]
  exact congrArg some (Fin.ext hval)

theorem channelOf?_large {b : Byte} (h : 8 ≤ b.toNat) : channelOf? b = none :=
  dif_neg (by omega)

/-- R134: the three codes of an axis choice. -/
theorem axes_illegal {axes : Byte} (h : axes = 0 ∨ 4 ≤ axes.toNat) : ¬(axes = 1 ∨ axes = 2 ∨ axes = 3) := by
  rintro (rfl | rfl | rfl) <;> exact absurd h (by decide)

/-! ## The checks -/

section
variable {s : State} {l : LinkId} {payload : List Byte} {p : PresetOperands}

theorem checkPreset_badRequest (h : payload.length ≠ 10) : checkPreset s l payload = .error .badRequest := by
  unfold checkPreset; rw [parsePreset_of_length_ne h]

theorem checkPreset_noLease (hp : parsePreset payload = some p) (h : s.lease.holder ≠ some l) :
    checkPreset s l payload = .error .noLease := by
  unfold checkPreset; rw [hp]; exact if_neg h

theorem checkPreset_outOfRange (hp : parsePreset payload = some p) (hl : s.lease.holder = some l)
    (h : 8 ≤ p.channel.toNat ∨ p.axes = 0 ∨ 4 ≤ p.axes.toNat) : checkPreset s l payload = .error .outOfRange := by
  unfold checkPreset
  rw [hp]
  refine (if_pos hl).trans ?_
  rcases h with hc | ha
  · rw [channelOf?_large hc]
  · cases channelOf? p.channel with
    | none => rfl
    | some c => exact if_neg (axes_illegal ha)

theorem checkPreset_accepted {c : ChannelId} (hp : parsePreset payload = some p) (hl : s.lease.holder = some l)
    (hc : p.channel = BitVec.ofNat 8 c.val) (ha : p.axes = 1 ∨ p.axes = 2 ∨ p.axes = 3) :
    checkPreset s l payload = .ok (c, p) := by
  unfold checkPreset
  rw [hp]
  refine (if_pos hl).trans ?_
  rw [channelOf?_ofNat hc]
  exact if_pos ha

theorem runPreset_refused {code : ResultCode} (h : checkPreset s l payload = .error code) :
    runPreset l payload s = sendResult l (.preset payload) code s := by
  unfold runPreset; rw [h]

theorem runPreset_accepted {c : ChannelId} (h : checkPreset s l payload = .ok (c, p)) :
    runPreset l payload s =
      sendResult l (.preset payload) .ok (s.modChannel c (Channel.preset p.axes p.along p.across)) := by
  unfold runPreset; rw [h]

end

/-! ## The command -/

/-- R122, R134: a refused PRESET answers with its code, and nothing else is done. -/
theorem exec_preset_refused {l : LinkId} {payload : List Byte} {rest : List Request} {s s1 : State} {code : ResultCode}
    (h : atComposition l (.preset payload) rest s s1) (hc : checkPreset s1 l payload = .error code) :
    exec (.preset l payload) s =
      .next (renewLease l (send l (shortReply .result 0x42 code.code) (popped l rest s1))) := by
  refine (exec_commandOf h).trans (congrArg Host.Outcome.next ?_)
  rw [execute_eq_popped]
  show renewLease l (runPreset l payload (popped l rest s1)) = _
  rw [runPreset_refused (s := popped l rest s1) hc]
  rfl

/-- R122, R134: an accepted PRESET, answered OK, with the lease that its check found renewed. -/
theorem exec_preset_accepted {l : LinkId} {payload : List Byte} {rest : List Request} {s s1 : State} {c : ChannelId}
    {p : PresetOperands} (h : atComposition l (.preset payload) rest s s1) (hl : s1.lease.holder = some l)
    (hc : checkPreset s1 l payload = .ok (c, p)) :
    exec (.preset l payload) s = .next
      { s1 with
        channels := upd s1.channels c (Channel.preset p.axes p.along p.across)
        links := upd s1.links l fun k => { k with queue := rest, tx := .sending (shortReply .result 0x42 0) }
        lease := { holder := some l, countdown := .running (100 * s1.settings.leaseTimeout) } } := by
  refine (exec_commandOf h).trans (congrArg Host.Outcome.next ?_)
  rw [execute_eq_popped]
  show renewLease l (runPreset l payload (popped l rest s1)) = _
  rw [runPreset_accepted (s := popped l rest s1) hc]
  show renewLease l (send l (shortReply .result 0x42 0)
    ((popped l rest s1).modChannel c (Channel.preset p.axes p.along p.across))) = _
  rw [renewLease_send (s1 := s1) (rest := rest)
    (u := (popped l rest s1).modChannel c (Channel.preset p.axes p.along p.across)) rfl rfl rfl,
    renewLease_of_holder hl, leaseReload_eq]
  rfl

/-! ## The position -/

section
variable {axes : Byte} {along across : Word32} {ch : Channel}

theorem Channel.preset_along (h : axes = 1 ∨ axes = 3) : (ch.preset axes along across).absoluteAlong = along := by
  show ch.movementAlong + (if axes = 1 ∨ axes = 3 then along - ch.movementAlong else ch.offsetAlong) = along
  rw [if_pos h, add_sub_cancel]

theorem Channel.preset_across (h : axes = 2 ∨ axes = 3) : (ch.preset axes along across).absoluteAcross = across := by
  show ch.movementAcross + (if axes = 2 ∨ axes = 3 then across - ch.movementAcross else ch.offsetAcross) = across
  rw [if_pos h, add_sub_cancel]

theorem Channel.preset_offsetAlong (h : axes = 2) : (ch.preset axes along across).offsetAlong = ch.offsetAlong :=
  if_neg (by subst h; decide)

theorem Channel.preset_offsetAcross (h : axes = 1) : (ch.preset axes along across).offsetAcross = ch.offsetAcross :=
  if_neg (by subst h; decide)

end

/-- Settles O42: the checks of `checkPreset` in order, and `Channel.preset` by its axes. -/
theorem presetSetsThePosition : Obligations.PresetSetsThePosition := by
  unfold Obligations.PresetSetsThePosition
  intro l payload rest s s1 h
  refine ⟨fun hlen => exec_preset_refused h (checkPreset_badRequest hlen), fun p hp =>
    ⟨fun hl => exec_preset_refused h (checkPreset_noLease hp hl),
      fun hl hrange => exec_preset_refused h (checkPreset_outOfRange hp hl hrange), fun c hl hc ha => ?_⟩⟩
  have hchannel : (upd s1.channels c (Channel.preset p.axes p.along p.across))[c] =
      s1.channels[c].preset p.axes p.along p.across := get_upd_eq
  refine ⟨_, exec_preset_accepted h hl (checkPreset_accepted hp hl hc ha), fun hx => ?_, fun hx => ?_, fun hx => ?_,
    fun hx => ?_, ?_, rfl, rfl, rfl⟩
  · exact (congrArg Channel.absoluteAlong hchannel).trans
      (Channel.preset_along (ha.elim .inl fun h23 => .inr (h23.resolve_left hx)))
  · exact (congrArg Channel.offsetAlong hchannel).trans (Channel.preset_offsetAlong hx)
  · exact (congrArg Channel.absoluteAcross hchannel).trans (Channel.preset_across (ha.resolve_left hx))
  · exact (congrArg Channel.offsetAcross hchannel).trans (Channel.preset_offsetAcross hx)
  · refine upd_congr _ _ _ _ ?_
    show _ = ({ s1.channels[c] with
      offsetAlong := (upd s1.channels c (Channel.preset p.axes p.along p.across))[c].offsetAlong
      offsetAcross := (upd s1.channels c (Channel.preset p.axes p.along p.across))[c].offsetAcross } : Channel)
    rw [hchannel]
    rfl

end Sys2Proof.Machine

/-! PROOFS. O43: the header check code (R162), by what each inverted bit adds to the check bits and to the parity. -/

namespace Sys2Proof.Machine

/-! ## The decision, by the inverted bits -/

section
variable {ed : BitVec 24} {ec : Byte}

/-- R162: an even number of inverted bits that the check bits show. -/
theorem decodeHeader_even (d : BitVec 24) (hc : (ec.getLsbD 6 || ec.getLsbD 7) = false)
    (hp : (parity ed 24 ^^ parity ec 6) = false) (hs : ec.setWidth 5 ^^^ checkBits ed ≠ 0) :
    decodeHeader (d ^^^ ed) (checkByte d ^^^ ec) = .uncorrectable := by
  rw [decodeHeader_inverted]
  dsimp only
  rw [hc, hp, if_neg Bool.false_ne_true, if_neg hs]
  rfl

/-- R162: an odd number of inverted bits, at the position of a check bit. -/
theorem decodeHeader_odd_check (d : BitVec 24) (hc : (ec.getLsbD 6 || ec.getLsbD 7) = false)
    (hp : (parity ed 24 ^^ parity ec 6) = true)
    (hs : ec.setWidth 5 ^^^ checkBits ed = 0 ∨ ec.setWidth 5 ^^^ checkBits ed = 1 ∨
      ec.setWidth 5 ^^^ checkBits ed = 2 ∨ ec.setWidth 5 ^^^ checkBits ed = 4 ∨ ec.setWidth 5 ^^^ checkBits ed = 8 ∨
      ec.setWidth 5 ^^^ checkBits ed = 16) :
    decodeHeader (d ^^^ ed) (checkByte d ^^^ ec) = .corrected (d ^^^ ed) := by
  rw [decodeHeader_inverted]
  dsimp only
  rw [hc, hp, if_neg Bool.false_ne_true]
  by_cases h0 : ec.setWidth 5 ^^^ checkBits ed = 0
  · rw [if_pos h0]
    rfl
  · rw [if_neg h0, if_pos (hs.resolve_left h0)]
    rfl

/-- R162: an odd number of inverted bits, at the position of a data bit. -/
theorem decodeHeader_odd_data (d : BitVec 24) {i : Nat} (hc : (ec.getLsbD 6 || ec.getLsbD 7) = false)
    (hp : (parity ed 24 ^^ parity ec 6) = true)
    (hs : ¬(ec.setWidth 5 ^^^ checkBits ed = 0 ∨ ec.setWidth 5 ^^^ checkBits ed = 1 ∨
      ec.setWidth 5 ^^^ checkBits ed = 2 ∨ ec.setWidth 5 ^^^ checkBits ed = 4 ∨ ec.setWidth 5 ^^^ checkBits ed = 8 ∨
      ec.setWidth 5 ^^^ checkBits ed = 16))
    (hi : dataBitAt (ec.setWidth 5 ^^^ checkBits ed) = some i) :
    decodeHeader (d ^^^ ed) (checkByte d ^^^ ec) = .corrected (d ^^^ ed ^^^ BitVec.twoPow 24 i) := by
  obtain ⟨h0, hpow⟩ := not_or.1 hs
  rw [decodeHeader_inverted]
  dsimp only
  rw [hc, hp, if_neg Bool.false_ne_true, if_neg h0, if_neg hpow, hi]
  rfl

end

/-! ## What one bit adds -/

/-- R162: the position of a data bit is its own, and none of the check bits'. -/
theorem dataBit_facts : ∀ i < 24, parity (BitVec.twoPow 24 i) 24 = true ∧
    dataBitAt (checkBits (BitVec.twoPow 24 i)) = some i ∧
    ¬(checkBits (BitVec.twoPow 24 i) = 0 ∨ checkBits (BitVec.twoPow 24 i) = 1 ∨
      checkBits (BitVec.twoPow 24 i) = 2 ∨ checkBits (BitVec.twoPow 24 i) = 4 ∨ checkBits (BitVec.twoPow 24 i) = 8 ∨
      checkBits (BitVec.twoPow 24 i) = 16) := by
  decide

/-- R162: check bits 0 to 4 stand at the powers of two, and check bit 5 completes the parity. -/
theorem checkBit_facts : ∀ j < 6, parity (BitVec.twoPow 8 j) 6 = true ∧
    ((BitVec.twoPow 8 j).getLsbD 6 || (BitVec.twoPow 8 j).getLsbD 7) = false ∧
    ((BitVec.twoPow 8 j).setWidth 5 = (0 : BitVec 5) ∨ (BitVec.twoPow 8 j).setWidth 5 = (1 : BitVec 5) ∨
      (BitVec.twoPow 8 j).setWidth 5 = (2 : BitVec 5) ∨ (BitVec.twoPow 8 j).setWidth 5 = (4 : BitVec 5) ∨
      (BitVec.twoPow 8 j).setWidth 5 = (8 : BitVec 5) ∨ (BitVec.twoPow 8 j).setWidth 5 = (16 : BitVec 5)) := by
  decide

theorem checkBit_positions : ∀ j < 6, ∀ j' < 6, j ≠ j' →
    (BitVec.twoPow 8 j ^^^ BitVec.twoPow 8 j').setWidth 5 ≠ (0 : BitVec 5) ∧
    ((BitVec.twoPow 8 j ^^^ BitVec.twoPow 8 j').getLsbD 6 ||
      (BitVec.twoPow 8 j ^^^ BitVec.twoPow 8 j').getLsbD 7) = false := by
  decide

theorem checkBits_zero : checkBits 0#24 = 0#5 := by decide

theorem parity_zero {w : Nat} (n : Nat) : parity 0#w n = false := by
  induction n with
  | zero => rfl
  | succ n ih => rw [parity, ih, BitVec.getLsbD_zero]; rfl

/-- R162: two data bits do not share a position. -/
theorem dataBit_positions {i i' : Nat} (hi : i < 24) (hi' : i' < 24) (hne : i ≠ i') :
    checkBits (BitVec.twoPow 24 i) ≠ checkBits (BitVec.twoPow 24 i') := fun h =>
  hne (Option.some.inj ((dataBit_facts i hi).2.1.symm.trans ((congrArg dataBitAt h).trans (dataBit_facts i' hi').2.1)))

/-! ## The header code -/

section
variable (d : BitVec 24)

theorem decodeHeader_undamaged : decodeHeader d (checkByte d) = .intact := by
  have h := decodeHeader_inverted d 0#24 0#8
  rw [BitVec.xor_zero, BitVec.xor_zero] at h
  rw [h]
  dsimp only
  rw [checkBits_zero, parity_zero, parity_zero]
  rfl

theorem decodeHeader_dataBit {i : Nat} (hi : i < 24) :
    decodeHeader (d ^^^ BitVec.twoPow 24 i) (checkByte d) = .corrected d := by
  obtain ⟨hparity, hposition, hnot⟩ := dataBit_facts i hi
  have hs : (0#8).setWidth 5 ^^^ checkBits (BitVec.twoPow 24 i) = checkBits (BitVec.twoPow 24 i) :=
    BitVec.zero_xor
  have h := decodeHeader_odd_data (ed := BitVec.twoPow 24 i) (ec := 0#8) d (i := i) rfl
    (by rw [hparity, parity_zero]; rfl) (by rw [hs]; exact hnot) (by rw [hs]; exact hposition)
  rwa [BitVec.xor_zero, BitVec.xor_assoc, BitVec.xor_self, BitVec.xor_zero] at h

theorem decodeHeader_checkBit {j : Nat} (hj : j < 6) :
    decodeHeader d (checkByte d ^^^ BitVec.twoPow 8 j) = .corrected d := by
  obtain ⟨hparity, hclear, hposition⟩ := checkBit_facts j hj
  have h := decodeHeader_odd_check (ed := 0#24) (ec := BitVec.twoPow 8 j) d hclear
    (by rw [hparity, parity_zero]; rfl) (by rw [checkBits_zero, BitVec.xor_zero]; exact hposition)
  rwa [BitVec.xor_zero] at h

theorem decodeHeader_dataBits {i i' : Nat} (hi : i < 24) (hi' : i' < 24) (hne : i ≠ i') :
    decodeHeader (d ^^^ BitVec.twoPow 24 i ^^^ BitVec.twoPow 24 i') (checkByte d) = .uncorrectable := by
  have h := decodeHeader_even (ed := BitVec.twoPow 24 i ^^^ BitVec.twoPow 24 i') (ec := 0#8) d rfl
    (by rw [parity_xor, parity_zero, (dataBit_facts i hi).1, (dataBit_facts i' hi').1]; rfl)
    (fun hs => dataBit_positions hi hi' hne (BitVec.xor_eq_zero_iff.1 ((checkBits_xor _ _).symm.trans
      (BitVec.zero_xor.symm.trans hs))))
  rwa [BitVec.xor_zero, ← BitVec.xor_assoc] at h

theorem decodeHeader_dataBit_checkBit {i j : Nat} (hi : i < 24) (hj : j < 6) :
    decodeHeader (d ^^^ BitVec.twoPow 24 i) (checkByte d ^^^ BitVec.twoPow 8 j) = .uncorrectable := by
  obtain ⟨hparity, -, hnot⟩ := dataBit_facts i hi
  obtain ⟨hparity', hclear, hposition⟩ := checkBit_facts j hj
  refine decodeHeader_even d hclear (by rw [hparity, hparity']; rfl) fun hs => hnot ?_
  rw [← BitVec.xor_eq_zero_iff.1 hs]
  exact hposition

theorem decodeHeader_checkBits {j j' : Nat} (hj : j < 6) (hj' : j' < 6) (hne : j ≠ j') :
    decodeHeader d (checkByte d ^^^ BitVec.twoPow 8 j ^^^ BitVec.twoPow 8 j') = .uncorrectable := by
  obtain ⟨hposition, hclear⟩ := checkBit_positions j hj j' hj' hne
  have h := decodeHeader_even (ed := 0#24) (ec := BitVec.twoPow 8 j ^^^ BitVec.twoPow 8 j') d hclear
    (by rw [parity_xor, parity_zero, (checkBit_facts j hj).1, (checkBit_facts j' hj').1]; rfl)
    (by rw [checkBits_zero, BitVec.xor_zero]; exact hposition)
  rwa [BitVec.xor_zero, ← BitVec.xor_assoc] at h

theorem decodeHeader_highBits {check : Byte} (h : check.getLsbD 6 = true ∨ check.getLsbD 7 = true) :
    decodeHeader d check = .uncorrectable := by
  unfold decodeHeader
  exact if_pos (Bool.or_eq_true_iff.2 h)

end

/-- Settles O43: one lemma for each damage. -/
theorem headerCodeCorrectsOneBitAndRefusesTwo : Obligations.HeaderCodeCorrectsOneBitAndRefusesTwo := by
  unfold Obligations.HeaderCodeCorrectsOneBitAndRefusesTwo
  exact fun d => ⟨decodeHeader_undamaged d, fun i hi => decodeHeader_dataBit d hi,
    fun j hj => decodeHeader_checkBit d hj, fun i hi i' hi' hne => decodeHeader_dataBits d hi hi' hne,
    fun i hi j hj => decodeHeader_dataBit_checkBit d hi hj,
    fun j hj j' hj' hne => decodeHeader_checkBits d hj hj' hne, fun check h => decodeHeader_highBits d h⟩

end Sys2Proof.Machine

/-! PROOFS. The receiver of a client link, one lemma for each state it takes a byte in, and the frames that arrive whole:
O44 and O45 (R122, R139 to R146, R161 to R163). -/

namespace Sys2Proof.Machine

/-! ## Modifications of one link -/

section
variable {s : State} {l : LinkId}

theorem modLink_modLink (f g : Link → Link) : (s.modLink l f).modLink l g = s.modLink l fun k => g (f k) :=
  congrArg (fun links => ({ s with links := links } : State)) (upd_upd s.links l f g)

/-- A modification of a link is what it makes of that link's registers. -/
theorem modLink_congr {f g : Link → Link} (h : f s.links[l] = g s.links[l]) : s.modLink l f = s.modLink l g :=
  congrArg (fun links => ({ s with links := links } : State)) (upd_congr s.links l f g h)

theorem modLink_get (f : Link → Link) : (s.modLink l f).links[l] = f s.links[l] := by
  rw [State.modLink_links, get_upd_eq]

theorem modLink_renewLease (f : Link → Link) : (renewLease l s).modLink l f = renewLease l (s.modLink l f) := by
  have hlease : (renewLease l (s.modLink l f)).lease = (renewLease l s).lease := renewLease_congr rfl rfl
  rw [renewLease_eq l s, renewLease_eq l (s.modLink l f), hlease]
  rfl

theorem renewLease_links : (renewLease l s).links = s.links := by
  rw [renewLease_eq]

/-! ## One byte -/

/-- R139: a byte taken while the client owns the line. -/
theorem takeBytes_cons {b : Byte} {bs : List Byte} (h : s.links[l].owner = .client) :
    takeBytes l (b :: bs) s = takeBytes l bs (receiveByte l b s) := by
  unfold takeBytes
  rw [List.foldl_cons, takeCharacter_client h]

theorem takeBytes_append (as bs : List Byte) : takeBytes l (as ++ bs) s = takeBytes l bs (takeBytes l as s) :=
  List.foldl_append

theorem receiveByte_idle {b : Byte} (h : s.links[l].receiver = .idle) :
    receiveByte l b s = s.modLink l fun k => { k with receiver := .header [b] } := by
  unfold receiveByte; rw [h]

theorem receiveByte_header {b : Byte} {got : List Byte} (h : s.links[l].receiver = .header got)
    (hn : got.length = 1 ∨ got.length = 2) :
    receiveByte l b s = s.modLink l fun k => { k with receiver := .header (got ++ [b]) } := by
  unfold receiveByte
  rw [h]
  dsimp only
  split
  · exact absurd hn (fun h => h.elim (fun h => nomatch h) fun h => nomatch h)
  · rfl

theorem receiveByte_fourth {x y z b : Byte} (h : s.links[l].receiver = .header [x, y, z]) :
    receiveByte l b s = headerEvent l x y z b s := by
  unfold receiveByte; rw [h]

theorem receiveByte_payload {kind b : Byte} {n : Nat} {got : List Byte} {skip : Bool}
    (h : s.links[l].receiver = .payload kind n got skip) :
    receiveByte l b s = s.modLink l fun k =>
      { k with
        receiver := if got.length + 1 < n then .payload kind n (got ++ [b]) skip
          else .footer kind (got ++ [b]) none skip } := by
  unfold receiveByte; rw [h]

theorem receiveByte_footer {kind b : Byte} {payload : List Byte} {skip : Bool}
    (h : s.links[l].receiver = .footer kind payload none skip) :
    receiveByte l b s = s.modLink l fun k => { k with receiver := .footer kind payload (some b) skip } := by
  unfold receiveByte; rw [h]

theorem receiveByte_last {kind hi b : Byte} {payload : List Byte} {skip : Bool}
    (h : s.links[l].receiver = .footer kind payload (some hi) skip) :
    receiveByte l b s = s.modLink l fun k => k.longArrived kind payload (word hi b) skip := by
  unfold receiveByte; rw [h]

/-! ## Headers -/

theorem headerArrived_intact {k : Link} {x y z check : Byte} (h : decodeHeader (headerBits x y z) check = .intact) :
    k.headerArrived x y z check = k.headerDecided (headerBits x y z) := by
  unfold Link.headerArrived
  dsimp only
  rw [h]

theorem headerArrived_corrected {k : Link} {x y z check : Byte} {d : BitVec 24}
    (h : decodeHeader (headerBits x y z) check = .corrected d) :
    k.headerArrived x y z check = ((k.record .headerCorrected).countCorrected).headerDecided d := by
  unfold Link.headerArrived
  dsimp only
  rw [h]

theorem headerArrived_uncorrectable {k : Link} {x y z check : Byte}
    (h : decodeHeader (headerBits x y z) check = .uncorrectable) :
    k.headerArrived x y z check = k.discardWith .headerUncorrectable .discard := by
  unfold Link.headerArrived
  dsimp only
  rw [h]

/-- R122: a header that is not uncorrectable renews the lease. -/
theorem headerEvent_ok {x y z check : Byte} (h : decodeHeader (headerBits x y z) check ≠ .uncorrectable) :
    headerEvent l x y z check s = renewLease l (s.modLink l fun k => k.headerArrived x y z check) :=
  if_pos (decide_eq_true h)

theorem headerEvent_intact {x y z check : Byte} (h : decodeHeader (headerBits x y z) check = .intact) :
    headerEvent l x y z check s = renewLease l (s.modLink l fun k => k.headerDecided (headerBits x y z)) := by
  rw [headerEvent_ok (by rw [h]; exact HeaderOutcome.noConfusion)]
  exact congrArg (renewLease l) (modLink_congr (headerArrived_intact h))

theorem headerEvent_corrected {x y z check : Byte} {d : BitVec 24}
    (h : decodeHeader (headerBits x y z) check = .corrected d) :
    headerEvent l x y z check s =
      renewLease l (s.modLink l fun k => ((k.record .headerCorrected).countCorrected).headerDecided d) := by
  rw [headerEvent_ok (by rw [h]; exact HeaderOutcome.noConfusion)]
  exact congrArg (renewLease l) (modLink_congr (headerArrived_corrected h))

theorem headerEvent_uncorrectable {x y z check : Byte} (h : decodeHeader (headerBits x y z) check = .uncorrectable) :
    headerEvent l x y z check s = s.modLink l fun k => k.discardWith .headerUncorrectable .discard := by
  have hnot : headerOk x y z check = false := decide_eq_false fun hn => hn h
  have harrived : headerEvent l x y z check s = s.modLink l fun k => k.headerArrived x y z check :=
    if_neg (by rw [hnot]; exact Bool.false_ne_true)
  exact harrived.trans (modLink_congr (headerArrived_uncorrectable h))

theorem headerDecided_short {k : Link} {x y z : Byte} (h : isShortKind x = true) :
    k.headerDecided (headerBits x y z) = k.shortArrived x y z := by
  obtain ⟨hkind, hfirst, hsecond, -⟩ := headerBits_parts x y z
  unfold Link.headerDecided
  rw [hkind, hfirst, hsecond]
  exact if_pos h

theorem headerDecided_long {k : Link} {x y z : Byte} (h : isShortKind x = false) :
    k.headerDecided (headerBits x y z) = k.longHeader x (256 * y.toNat + z.toNat) := by
  obtain ⟨hkind, -, -, hlength⟩ := headerBits_parts x y z
  unfold Link.headerDecided
  rw [hkind, hlength]
  exact if_neg (by rw [h]; exact Bool.false_ne_true)

/-- R139, R162: the four bytes of an undamaged header. -/
theorem takeBytes_header {x y z : Byte} (hc : s.links[l].owner = .client) (hr : s.links[l].receiver = .idle) :
    takeBytes l [x, y, z, checkByte (headerBits x y z)] s =
      renewLease l (s.modLink l fun k =>
        Link.headerDecided { k with receiver := .header [x, y, z] } (headerBits x y z)) := by
  rw [takeBytes_cons hc, receiveByte_idle hr, takeBytes_cons (by rw [modLink_get]; exact hc),
    receiveByte_header (got := [x]) (by rw [modLink_get]) (.inl rfl), modLink_modLink]
  rw [takeBytes_cons (by rw [modLink_get]; exact hc),
    receiveByte_header (got := [x, y]) (by rw [modLink_get]; rfl) (.inr rfl), modLink_modLink]
  rw [takeBytes_cons (by rw [modLink_get]; exact hc), receiveByte_fourth (x := x) (y := y) (z := z)
    (by rw [modLink_get]; rfl), headerEvent_intact (decodeHeader_undamaged _), modLink_modLink]
  rfl

/-! ## Frames -/

/-- R161: a short frame. -/
theorem takeBytes_shortFrame {kind p0 p1 : Byte} (hc : s.links[l].owner = .client) (hr : s.links[l].receiver = .idle)
    (hk : isShortKind kind = true) :
    takeBytes l (shortFrame kind p0 p1) s =
      renewLease l (s.modLink l fun k => Link.shortArrived { k with receiver := .header [kind, p0, p1] } kind p0 p1) :=
  (takeBytes_header hc hr).trans (congrArg (renewLease l) (modLink_congr (headerDecided_short hk)))

/-- R140: the payload of a long frame. -/
theorem takeBytes_payload {kind : Byte} {n : Nat} {skip : Bool} (bytes got : List Byte) (s : State)
    (hc : s.links[l].owner = .client) (hr : s.links[l].receiver = .payload kind n got skip) (hb : bytes ≠ [])
    (hn : got.length + bytes.length = n) :
    takeBytes l bytes s = s.modLink l fun k => { k with receiver := .footer kind (got ++ bytes) none skip } := by
  induction bytes generalizing got s with
  | nil => exact absurd rfl hb
  | cons b bytes ih =>
    rw [takeBytes_cons hc, receiveByte_payload hr]
    cases bytes with
    | nil =>
      have hlast : ¬got.length + 1 < n := by rw [← hn]; exact lt_irrefl _
      rw [if_neg hlast]
      rfl
    | cons b' bytes =>
      have hmore : got.length + 1 < n := by
        rw [List.length_cons, List.length_cons] at hn
        omega
      rw [if_pos hmore, ih (got ++ [b]) _ (by rw [modLink_get]; exact hc) (by rw [modLink_get])
        (List.cons_ne_nil _ _) (by rw [← hn]; simp only [List.length_append, List.length_cons, List.length_nil]; omega),
        modLink_modLink, List.append_assoc]
      rfl

/-- R140, R163: the two CRC bytes of a long frame. -/
theorem takeBytes_footer {kind hi lo : Byte} {payload : List Byte} {skip : Bool} (hc : s.links[l].owner = .client)
    (hr : s.links[l].receiver = .footer kind payload none skip) :
    takeBytes l [hi, lo] s = s.modLink l fun k =>
      Link.longArrived { k with receiver := .footer kind payload (some hi) skip } kind payload (word hi lo) skip := by
  rw [takeBytes_cons hc, receiveByte_footer hr, takeBytes_cons (by rw [modLink_get]; exact hc),
    receiveByte_last (kind := kind) (hi := hi) (payload := payload) (skip := skip) (by rw [modLink_get]),
    modLink_modLink]
  rfl

end

/-- R161: the two bytes of a word are the word. -/
theorem word_be16 (w : Word) : word (w.extractLsb' 8 8) (w.extractLsb' 0 8) = w := by
  apply BitVec.eq_of_toNat_eq
  have hw := w.isLt
  rw [toNat_word, BitVec.extractLsb'_toNat, BitVec.extractLsb'_toNat, Nat.shiftRight_eq_div_pow, Nat.shiftRight_zero]
  omega

/-- R140, R161: the length of a payload that a frame can carry, in the header's two bytes. -/
theorem headerLength {n : Nat} (h : n ≤ 256) :
    256 * ((BitVec.ofNat 16 n).extractLsb' 8 8).toNat + ((BitVec.ofNat 16 n).extractLsb' 0 8).toNat = n := by
  rw [← toNat_word, word_be16, BitVec.toNat_ofNat]
  omega

theorem payloadOk_iff {payload : List Byte} :
    payloadOk payload = true ↔ 1 ≤ payload.length ∧ payload.length ≤ 256 := by
  unfold payloadOk
  rw [Bool.and_eq_true, decide_eq_true_iff, decide_eq_true_iff]

section
variable {k : Link}

/-- R140: the header of a long frame that the receiver takes. -/
theorem longHeader_request {kind : Byte} {n : Nat} (h1 : 1 ≤ n) (h2 : n ≤ 256) (hk : isLongRequestKind kind = true) :
    k.longHeader kind n = { k with receiver := .payload kind n [] false } := by
  unfold Link.longHeader
  rw [if_neg (by omega), if_pos hk]

/-- R144: what a frame that arrives whole does, whatever the receiver held of it. -/
theorem shortArrived_receiver (kind p0 p1 : Byte) (x : Receiver) :
    Link.shortArrived { k with receiver := x } kind p0 p1 = k.shortArrived kind p0 p1 := by
  unfold Link.shortArrived
  split
  · rfl
  · split
    · rfl
    · cases shortRequest? kind p0 p1 with
      | none => rfl
      | some r => rfl

theorem longArrived_receiver (kind : Byte) (payload : List Byte) (sum : Word) (skip : Bool) (x : Receiver) :
    Link.longArrived { k with receiver := x } kind payload sum skip = k.longArrived kind payload sum skip := by
  unfold Link.longArrived
  split
  · rfl
  · split
    · split
      · rfl
      · cases longRequest? kind payload with
        | none => rfl
        | some r => rfl
    · rfl

/-- R144: a short frame that is a request to queue. -/
theorem shortArrived_request {kind p0 p1 : Byte} {r : Request} (h : shortRequest? kind p0 p1 = some r)
    (hturn : kind ≠ turnKind) (hnoop : kind ≠ noopKind) : k.shortArrived kind p0 p1 = k.enqueue r := by
  unfold Link.shortArrived
  rw [if_neg hturn, if_neg hnoop, h]

/-- R144: a long frame that is a request to queue. -/
theorem longArrived_request {kind : Byte} {payload : List Byte} {r : Request} (h : longRequest? kind payload = some r)
    (hfill : kind ≠ fillKind) : k.longArrived kind payload (crc payload) false = k.enqueue r := by
  unfold Link.longArrived
  rw [if_neg Bool.false_ne_true, if_pos rfl, if_neg hfill, h]

/-- R144, R146: a TURN that arrives. -/
theorem shortArrived_turn (p0 p1 : Byte) : k.shortArrived turnKind p0 p1 =
    { k with accepted := satInc 65535 k.accepted, owner := .am48, tx := .guard, receiver := .idle } := rfl

/-- R144: a NOOP that arrives. -/
theorem shortArrived_noop (p0 p1 : Byte) : k.shortArrived noopKind p0 p1 =
    { k with accepted := satInc 65535 k.accepted, receiver := .idle } := rfl

/-- R144: a FILL that arrives. -/
theorem longArrived_fill (payload : List Byte) : k.longArrived fillKind payload (crc payload) false =
    { k with accepted := satInc 65535 k.accepted, receiver := .idle } := by
  unfold Link.longArrived
  rw [if_neg Bool.false_ne_true, if_pos rfl, if_pos rfl]
  rfl

end

section
variable {s : State} {l : LinkId}

/-- R140: the header of a long frame. -/
theorem takeBytes_longHeader {kind hi lo : Byte} {n : Nat} (hc : s.links[l].owner = .client)
    (hr : s.links[l].receiver = .idle) (hk : isLongRequestKind kind = true) (hs : isShortKind kind = false)
    (hn : 256 * hi.toNat + lo.toNat = n) (h1 : 1 ≤ n) (h2 : n ≤ 256) :
    takeBytes l [kind, hi, lo, checkByte (headerBits kind hi lo)] s =
      renewLease l (s.modLink l fun k => { k with receiver := .payload kind n [] false }) := by
  refine (takeBytes_header hc hr).trans (congrArg (renewLease l) (modLink_congr ?_))
  rw [headerDecided_long hs, hn, longHeader_request h1 h2 hk]

theorem renewed_get (f : Link → Link) : (renewLease l (s.modLink l f)).links[l] = f s.links[l] := by
  rw [renewLease_links, modLink_get]

/-- R140, R161, R163: a long frame. -/
theorem takeBytes_longFrame {kind : Byte} {payload : List Byte} (hc : s.links[l].owner = .client)
    (hr : s.links[l].receiver = .idle) (hk : isLongRequestKind kind = true) (hs : isShortKind kind = false)
    (hp : payloadOk payload = true) :
    takeBytes l (longFrame kind payload) s =
      renewLease l (s.modLink l fun k => k.longArrived kind payload (crc payload) false) := by
  obtain ⟨h1, h2⟩ := payloadOk_iff.1 hp
  have hpayload := takeBytes_payload (l := l) payload []
    (renewLease l (s.modLink l fun k => { k with receiver := .payload kind payload.length [] false }))
    (by rw [renewed_get]; exact hc) (by rw [renewed_get]) (List.ne_nil_of_length_pos h1) (Nat.zero_add _)
  rw [modLink_renewLease, modLink_modLink] at hpayload
  have hfooter := takeBytes_footer (l := l) (kind := kind) (payload := payload) (skip := false)
    (hi := (crc payload).extractLsb' 8 8) (lo := (crc payload).extractLsb' 0 8)
    (s := renewLease l (s.modLink l fun k => { k with receiver := .footer kind payload none false }))
    (by rw [renewed_get]; exact hc) (by rw [renewed_get])
  rw [modLink_renewLease, modLink_modLink, word_be16] at hfooter
  unfold longFrame be16
  rw [takeBytes_append, takeBytes_append, takeBytes_longHeader hc hr hk hs (headerLength h2) h1 h2, hpayload]
  refine hfooter.trans (congrArg (renewLease l) (modLink_congr ?_))
  exact longArrived_receiver kind payload (crc payload) false _

/-- R144: the frame of a request that a frame can carry arrives whole. -/
theorem takeBytes_frameOf {r : Request} (hsend : sendable r = true) (h : listening l s) :
    takeBytes l (frameOf r) s = renewLease l (s.modLink l fun k => k.enqueue r) := by
  obtain ⟨-, hc, hr⟩ := h
  have hshort : ∀ {kind p0 p1 : Byte}, isShortKind kind = true → shortRequest? kind p0 p1 = some r → kind ≠ turnKind →
      kind ≠ noopKind → takeBytes l (shortFrame kind p0 p1) s = renewLease l (s.modLink l fun k => k.enqueue r) :=
    fun hk hreq hturn hnoop => (takeBytes_shortFrame hc hr hk).trans (congrArg (renewLease l)
      (modLink_congr ((shortArrived_receiver _ _ _ _).trans (shortArrived_request hreq hturn hnoop))))
  have hlong : ∀ {kind : Byte} {payload : List Byte}, payloadOk payload = true → isLongRequestKind kind = true →
      isShortKind kind = false → longRequest? kind payload = some r → kind ≠ fillKind →
      takeBytes l (longFrame kind payload) s = renewLease l (s.modLink l fun k => k.enqueue r) :=
    fun hp hk hs hreq hfill => (takeBytes_longFrame hc hr hk hs hp).trans (congrArg (renewLease l)
      (modLink_congr (longArrived_request hreq hfill)))
  cases r with
  | motionRead mask options => exact hshort rfl rfl (by decide) (by decide)
  | captureRead n => exact hshort rfl rfl (by decide) (by decide)
  | linkStatus => exact hshort rfl rfl (by decide) (by decide)
  | viewReset => exact hshort rfl rfl (by decide) (by decide)
  | leaseAcquire => exact hshort rfl rfl (by decide) (by decide)
  | leaseRelease => exact hshort rfl rfl (by decide) (by decide)
  | settingRead payload => exact hlong hsend rfl rfl rfl (by decide)
  | settingWrite payload => exact hlong hsend rfl rfl rfl (by decide)
  | preset payload => exact hlong hsend rfl rfl rfl (by decide)

/-- R136, R156: a character leaves a link that operates operating. -/
theorem operating_takeCharacter {line : Samples 10} (h : operating s l = true) :
    operating (takeCharacter l line s) l = true := by
  obtain ⟨hphase, -, hstraps, -⟩ := takeCharacter_frame l line s
  unfold operating linkEnabled at h ⊢
  rw [hphase, hstraps]
  exact h

theorem exec_receivedByte {line : Samples 10} (h : operating s l = true) :
    exec (.receivedByte l line) s = .next (takeCharacter l line s) :=
  exec_link rfl h

theorem receiveAll_eq (bytes : List Byte) (s : State) (h : operating s l = true) :
    receiveAll l bytes s = .next (takeBytes l bytes s) := by
  induction bytes generalizing s with
  | nil => rfl
  | cons b bytes ih =>
    unfold receiveAll
    rw [exec_receivedByte h]
    exact ih _ (operating_takeCharacter h)

end

/-- R144: a request joins the tail of a queue that has room. -/
theorem enqueue_room {k : Link} {r : Request} (h : k.queue.length < 4) :
    k.enqueue r =
      { k with accepted := satInc 65535 k.accepted, queue := k.queue ++ [r], receiver := .idle } :=
  if_pos h

/-- R144: a request that finds a full queue is discarded. -/
theorem enqueue_full {k : Link} {r : Request} (h : k.queue.length = 4) :
    k.enqueue r =
      { k with summary := k.summary ||| 0x100, discarded := satInc 65535 k.discarded, receiver := .idle } :=
  if_neg (by rw [h]; decide)

/-- Settles O44: the receiver, byte by byte, and `Link.enqueue` with room. -/
theorem receivedFrameIsTheRequest : Obligations.ReceivedFrameIsTheRequest := by
  unfold Obligations.ReceivedFrameIsTheRequest
  intro l r s hsend h hroom
  rw [receiveAll_eq (frameOf r) s h.1, takeBytes_frameOf hsend h]
  refine congrArg (fun u => Host.Outcome.next (renewLease l u)) (modLink_congr ?_)
  rw [enqueue_room hroom, ← h.2.2]

/-- Settles O45: the kinds that join no queue, and `Link.enqueue` without room. -/
theorem framesThatJoinNoQueue : Obligations.FramesThatJoinNoQueue := by
  unfold Obligations.FramesThatJoinNoQueue
  refine ⟨fun l p0 p1 s h => ⟨?_, ?_⟩, fun l payload s h hp => ?_, fun l r s hsend h hfull => ?_⟩
  · have hturn := takeBytes_shortFrame (p0 := p0) (p1 := p1) h.2.1 h.2.2 (by decide : isShortKind turnKind = true)
    refine (exec_link (i := .turn l p0 p1) rfl h.1).trans (congrArg Host.Outcome.next (hturn.trans ?_))
    refine congrArg (renewLease l) (modLink_congr ?_)
    rw [shortArrived_turn, ← h.2.2]
  · have hnoop := takeBytes_shortFrame (p0 := p0) (p1 := p1) h.2.1 h.2.2 (by decide : isShortKind noopKind = true)
    refine (exec_link (i := .noop l p0 p1) rfl h.1).trans (congrArg Host.Outcome.next (hnoop.trans ?_))
    refine congrArg (renewLease l) (modLink_congr ?_)
    rw [shortArrived_noop, ← h.2.2]
  · have hfill := takeBytes_longFrame h.2.1 h.2.2 (by decide : isLongRequestKind fillKind = true)
      (by decide : isShortKind fillKind = false) hp
    refine (exec_link (i := .fill l payload) rfl h.1).trans (congrArg Host.Outcome.next (hfill.trans ?_))
    refine congrArg (renewLease l) (modLink_congr ?_)
    rw [longArrived_fill, ← h.2.2]
  · rw [receiveAll_eq (frameOf r) s h.1, takeBytes_frameOf hsend h]
    refine congrArg (fun u => Host.Outcome.next (renewLease l u)) (modLink_congr ?_)
    rw [enqueue_full hfull, ← h.2.2]

end Sys2Proof.Machine

/-! PROOFS. O46: the characters of a client link (R136, R137, R139, R140, R143, R151). -/

namespace Sys2Proof.Machine

section
variable {s : State} {l : LinkId}

/-! ## Characters while the client owns the line -/

theorem takeCharacter_ignored {line : Samples 10} (hc : s.links[l].owner = .client)
    (h : line.getLsbD 0 = true ∨ line.getLsbD 9 = false) : takeCharacter l line s = s := by
  unfold takeCharacter
  rw [hc]
  refine if_neg ?_
  unfold hasStartBit hasStopBit
  rw [Bool.and_eq_true, Bool.not_eq_true']
  rintro ⟨hstart, hstop⟩
  exact h.elim (fun h0 => Bool.false_ne_true (hstart.symm.trans h0)) fun h9 => Bool.false_ne_true (h9.symm.trans hstop)

theorem takeCharacter_byte {line : Samples 10} (hc : s.links[l].owner = .client) (h0 : line.getLsbD 0 = false)
    (h9 : line.getLsbD 9 = true) : takeCharacter l line s = receiveByte l (dataOf line) s := by
  unfold takeCharacter
  rw [hc]
  refine if_pos ?_
  unfold hasStartBit hasStopBit
  rw [h0, h9]
  rfl

theorem exec_character {b : Byte} (ho : operating s l = true) (hc : s.links[l].owner = .client) :
    exec (.receivedByte l (character b)) s = .next (receiveByte l b s) :=
  (exec_receivedByte ho).trans (congrArg Host.Outcome.next (takeCharacter_client hc))

theorem fourthByte_eq {x y z b : Byte} (hc : s.links[l].owner = .client) (hr : s.links[l].receiver = .header [x, y, z]) :
    fourthByte l b s = headerEvent l x y z b s := by
  unfold fourthByte; rw [hc, hr]

theorem lastCrcByte_eq {kind hi b : Byte} {payload : List Byte} {skip : Bool} (hc : s.links[l].owner = .client)
    (hr : s.links[l].receiver = .footer kind payload (some hi) skip) :
    lastCrcByte l b s = s.modLink l fun k => k.longArrived kind payload (word hi b) skip := by
  unfold lastCrcByte; rw [hc, hr]

/-- R143: a byte that the receiver does not examine. -/
theorem receiveByte_unexamined {b : Byte}
    (h : s.links[l].receiver = .discard ∨ ∃ taken, s.links[l].receiver = .awaitMark taken) : receiveByte l b s = s := by
  rcases h with h | ⟨taken, h⟩
  · unfold receiveByte; rw [h]
  · unfold receiveByte; rw [h]

end

/-! ## The end of a long frame -/

section
variable {k : Link} {kind : Byte} {payload : List Byte} {sum : Word}

theorem longArrived_skip : k.longArrived kind payload sum true = { k with receiver := .idle } := if_pos rfl

theorem longArrived_badCrc (h : sum ≠ crc payload) : k.longArrived kind payload sum false =
    { k with receiver := .idle, summary := k.summary ||| 0x010, discarded := satInc 65535 k.discarded } := by
  unfold Link.longArrived
  rw [if_neg Bool.false_ne_true, if_neg h]
  rfl

/-- R144: FILL is not among the kinds that queue. -/
theorem kind_ne_fill {r : Request} (h : longRequest? kind payload = some r) : kind ≠ fillKind := by
  rintro rfl
  exact nomatch h

end

/-! ## Characters while the AM48 owns the line -/

section
variable {k : Link} {line : Samples 10}

/-- R136, R151: a character sent is read back, and another that spoils it is contention. -/
theorem readBack_sending {f : TxFrame} {x : Byte} {more : List Byte} (h : k.tx = .sending f) (hl : f.left = x :: more) :
    k.readBack line =
      { k with
        tx := .sending { f with left := more }
        summary := if line &&& character x = character x then k.summary else k.summary ||| 0x200 } := by
  have hstart : hasStartBit (line &&& character x) = true := by
    unfold hasStartBit
    rw [BitVec.getLsbD_and, character_start, Bool.and_false]
    rfl
  unfold Link.readBack
  rw [driven_sending h hl]
  refine (if_pos hstart).trans ?_
  split
  · next heq =>
    unfold Link.sendsOn
    rw [h]
    simp only [hl, List.tail_cons]
  · next hne =>
    have htx : (k.record .contention).tx = .sending f := h
    unfold Link.sendsOn
    rw [htx]
    simp only [hl, List.tail_cons]
    rfl

/-- R136: between characters, and in GUARD, there is nothing to send on. -/
theorem sendsOn_quiet (h : ∀ f, k.tx = .sending f → f.left = []) : k.sendsOn = k := by
  unfold Link.sendsOn
  split
  · next f hf =>
    have hleft : f.left.tail = f.left := by rw [h f hf]; rfl
    rw [hleft, ← hf]
  · rfl
  · rfl

/-- R151: between characters, and in GUARD, a start bit read is contention. -/
theorem readBack_quiet (h : ∀ f, k.tx = .sending f → f.left = []) :
    (line.getLsbD 0 = true → k.readBack line = k) ∧
      (line.getLsbD 0 = false → k.readBack line = { k with summary := k.summary ||| 0x200 }) := by
  have hread : line &&& k.driven = line := by rw [driven_mark h]; exact BitVec.and_allOnes
  unfold Link.readBack
  rw [hread]
  refine ⟨fun h0 => if_neg ?_, fun h0 => (if_pos ?_).trans ?_⟩
  · unfold hasStartBit
    rw [h0]
    exact Bool.false_ne_true
  · unfold hasStartBit
    rw [h0]
    rfl
  · have hne : line ≠ k.driven := by
      rw [driven_mark h]
      rintro rfl
      exact absurd h0 (by decide)
    rw [if_neg hne]
    exact sendsOn_quiet (k := k.record .contention) h

end

section
variable {s : State} {l : LinkId} {line : Samples 10}

theorem exec_client_character {b : Byte} {t : State} (ho : operating s l = true) (hc : s.links[l].owner = .client)
    (h : receiveByte l b s = t) : exec (.receivedByte l (character b)) s = .next t :=
  (exec_character ho hc).trans (congrArg Host.Outcome.next h)

theorem exec_am48_character {k : Link} (ho : operating s l = true) (ha : s.links[l].owner = .am48) {f : Link → Link}
    (h : s.links[l].readBack line = k) (hf : f s.links[l] = k) :
    exec (.receivedByte l line) s = .next { s with links := upd s.links l f } :=
  (exec_receivedByte ho).trans (congrArg Host.Outcome.next
    ((takeCharacter_am48 ha).trans (modLink_congr (h.trans hf.symm))))

theorem exec_lastCrcByte {kind hi b : Byte} {payload : List Byte} {skip : Bool} {f : Link → Link}
    (ho : operating s l = true) (hc : s.links[l].owner = .client)
    (hr : s.links[l].receiver = .footer kind payload (some hi) skip)
    (h : s.links[l].longArrived kind payload (word hi b) skip = f s.links[l]) :
    exec (.longFrameReceived l b) s = .next { s with links := upd s.links l f } :=
  (exec_link (i := .longFrameReceived l b) rfl ho).trans (congrArg Host.Outcome.next
    ((lastCrcByte_eq hc hr).trans (modLink_congr h)))

end

/-- Settles O46: one lemma for each state of the receiver and of the transmitter. -/
theorem receiverTakesBytes : Obligations.ReceiverTakesBytes := by
  unfold Obligations.ReceiverTakesBytes
  refine ⟨fun b => ⟨character_start b, character_stop b, fun n hn => character_data b hn⟩, fun l b s ho =>
    ⟨fun line hc => ⟨fun h => ?_, fun h0 h9 => ?_⟩, fun line ha => ⟨fun f x more hf hl => ?_, fun hq => ?_⟩, fun hc =>
    ⟨fun hr => exec_client_character ho hc (receiveByte_idle hr),
      fun got hr hn => exec_client_character ho hc (receiveByte_header hr hn), fun x y z hr => ?_,
      fun kind n got skip hr => exec_client_character ho hc (receiveByte_payload hr),
      fun kind payload skip hr => exec_client_character ho hc (receiveByte_footer hr),
      fun kind hi payload skip hr => ⟨?_, fun hs => ?_, fun hs hcrc => ?_, fun hs hcrc hk => ?_,
        fun hs hcrc r hreq hroom => ?_⟩, fun hr => exec_client_character ho hc (receiveByte_unexamined hr)⟩⟩⟩
  · exact (exec_receivedByte ho).trans (congrArg Host.Outcome.next (takeCharacter_ignored hc h))
  · rw [exec_character ho hc]
    exact (exec_receivedByte ho).trans (congrArg Host.Outcome.next (takeCharacter_byte hc h0 h9))
  · exact exec_am48_character ho ha (readBack_sending hf hl) rfl
  · have hquiet : ∀ f, s.links[l].tx = .sending f → f.left = [] := fun f hf => by
      rcases hq with h | h | ⟨g, hg, hleft⟩
      · exact nomatch h.symm.trans hf
      · exact nomatch h.symm.trans hf
      · cases hg.symm.trans hf
        exact hleft
    obtain ⟨hmark, hspace⟩ := readBack_quiet (line := line) hquiet
    refine ⟨fun h0 => ?_, fun h0 => exec_am48_character ho ha (hspace h0) rfl⟩
    exact (exec_receivedByte ho).trans (congrArg Host.Outcome.next
      ((takeCharacter_am48 ha).trans (modLink_fixed (hmark h0))))
  · refine (exec_character ho hc).trans ?_
    rw [receiveByte_fourth hr, ← fourthByte_eq hc hr]
    exact (exec_link (i := .frameHeaderReceived l b) rfl ho).symm
  · refine (exec_character ho hc).trans ?_
    rw [receiveByte_last hr, ← lastCrcByte_eq hc hr]
    exact (exec_link (i := .longFrameReceived l b) rfl ho).symm
  · subst hs
    exact exec_lastCrcByte ho hc hr longArrived_skip
  · subst hs
    exact exec_lastCrcByte ho hc hr (longArrived_badCrc hcrc)
  · subst hs hk
    have hsum : word hi b = crc payload := hcrc
    refine exec_lastCrcByte ho hc hr ?_
    rw [hsum]
    exact longArrived_fill payload
  · subst hs
    have hsum : word hi b = crc payload := hcrc
    refine exec_lastCrcByte ho hc hr ?_
    rw [hsum, longArrived_request hreq (kind_ne_fill hreq), enqueue_room hroom]

end Sys2Proof.Machine

/-! PROOFS. O47 and O48: the fourth byte of a frame, and the line events of a client link (R122, R138 to R143, R151, R152,
R160). -/

namespace Sys2Proof.Machine

/-! ## Headers that are refused -/

section
variable {k : Link} {kind : Byte}

theorem badKind_bit (kind : Byte) : (badKind kind).bit = if kind.getLsbD 7 = true then 0x080 else 0x040 := by
  unfold badKind isPartKind
  split <;> rfl

/-- R141: a short frame of a kind that is no request. -/
theorem shortArrived_unlisted {p0 p1 : Byte}
    (h : kind ∉ ([0x01, 0x02, 0x10, 0x11, 0x12, 0x13, 0x20, 0x21] : List Byte)) :
    k.shortArrived kind p0 p1 =
      { k with
        receiver := .idle
        summary := k.summary ||| (if kind.getLsbD 7 = true then 0x080 else 0x040)
        discarded := satInc 65535 k.discarded } := by
  simp only [List.mem_cons, List.not_mem_nil, or_false, not_or] at h
  obtain ⟨hturn, hnoop, h10, h11, h12, h13, h20, h21⟩ := h
  have hnone : shortRequest? kind p0 p1 = none := by
    unfold shortRequest?
    rw [if_neg h10, if_neg h11, if_neg h12, if_neg h13, if_neg h20, if_neg h21]
  unfold Link.shortArrived turnKind noopKind
  rw [if_neg hturn, if_neg hnoop, hnone, ← badKind_bit]
  rfl

/-- R140: a length that no long frame has. -/
theorem longHeader_badLength {n : Nat} (h : n = 0 ∨ 256 < n) :
    k.longHeader kind n =
      { k with receiver := .discard, summary := k.summary ||| 0x020, discarded := satInc 65535 k.discarded } :=
  if_pos h

theorem isLongRequestKind_iff : isLongRequestKind kind = true ↔ kind ∈ ([0x40, 0x41, 0x42, 0x43] : List Byte) := by
  unfold isLongRequestKind fillKind
  simp [or_assoc]

/-- R141: a long frame of a kind that is no request is skipped by its length. -/
theorem longHeader_unlisted {n : Nat} (h1 : 1 ≤ n) (h2 : n ≤ 256)
    (h : kind ∉ ([0x40, 0x41, 0x42, 0x43] : List Byte)) :
    k.longHeader kind n =
      { k with
        receiver := .payload kind n [] true
        summary := k.summary ||| (if kind.getLsbD 7 = true then 0x080 else 0x040)
        discarded := satInc 65535 k.discarded } := by
  unfold Link.longHeader
  rw [if_neg (by omega), if_neg (mt isLongRequestKind_iff.1 h), ← badKind_bit]
  rfl

end

section
variable {s : State} {l : LinkId} {x y z check : Byte}

theorem exec_fourthByte {t : State} (ho : operating s l = true) (hc : s.links[l].owner = .client)
    (hr : s.links[l].receiver = .header [x, y, z]) (h : headerEvent l x y z check s = t) :
    exec (.frameHeaderReceived l check) s = .next t :=
  (exec_link (i := .frameHeaderReceived l check) rfl ho).trans (congrArg Host.Outcome.next ((fourthByte_eq hc hr).trans h))

/-- R122, R139: the fourth byte of an intact header. -/
theorem exec_fourthByte_intact {f : Link → Link} (ho : operating s l = true) (hc : s.links[l].owner = .client)
    (hr : s.links[l].receiver = .header [x, y, z]) (h : decodeHeader (headerBits x y z) check = .intact)
    (hf : s.links[l].headerDecided (headerBits x y z) = f s.links[l]) :
    exec (.frameHeaderReceived l check) s = .next (renewLease l { s with links := upd s.links l f }) :=
  exec_fourthByte ho hc hr ((headerEvent_intact h).trans (congrArg (renewLease l) (modLink_congr hf)))

end

/-- Settles O47: `headerEvent` by what the header code makes of the four bytes. -/
theorem headerDecidesTheFrame : Obligations.HeaderDecidesTheFrame := by
  unfold Obligations.HeaderDecidesTheFrame
  intro l x y z check s ho hc hr
  refine ⟨fun h => exec_fourthByte ho hc hr (headerEvent_uncorrectable h),
    fun d h => exec_fourthByte ho hc hr (headerEvent_corrected h), fun h => ⟨fun hs hx => ?_, fun hs hn => ?_,
      fun hs h1 h2 => ⟨fun hx => ?_, fun hx => ?_⟩⟩⟩
  · exact exec_fourthByte_intact ho hc hr h ((headerDecided_short hs).trans (shortArrived_unlisted hx))
  · exact exec_fourthByte_intact ho hc hr h ((headerDecided_long hs).trans (longHeader_badLength hn))
  · exact exec_fourthByte_intact ho hc hr h
      ((headerDecided_long hs).trans (longHeader_request h1 h2 (isLongRequestKind_iff.2 hx)))
  · exact exec_fourthByte_intact ho hc hr h ((headerDecided_long hs).trans (longHeader_unlisted h1 h2 hx))

/-! ## Line events -/

section
variable {k : Link}

theorem timeout_header {got : List Byte} (h : k.receiver = .header got) : k.timeout =
    { k with receiver := .idle, summary := k.summary ||| 0x002, discarded := satInc 65535 k.discarded } := by
  unfold Link.timeout; rw [h]; rfl

/-- R142, R143: a frame that is abandoned is counted once. -/
theorem abandonWith_eq (skip : Bool) (x : LinkCondition) (next : Receiver) :
    k.abandonWith skip x next =
      { k with
        receiver := next
        summary := k.summary ||| x.bit
        discarded := if skip then k.discarded else satInc 65535 k.discarded } := by
  cases skip <;> rfl

theorem timeout_long {kind : Byte} {n : Nat} {got payload : List Byte} {first : Option Byte} {skip : Bool}
    (h : k.receiver = .payload kind n got skip ∨ k.receiver = .footer kind payload first skip) :
    k.timeout = k.abandonWith skip .frameTimeout .idle := by
  unfold Link.timeout
  rcases h with h | h
  · rw [h]
  · rw [h]

theorem framingError_long {kind : Byte} {n : Nat} {got payload : List Byte} {first : Option Byte} {skip : Bool}
    (h : k.receiver = .payload kind n got skip ∨ k.receiver = .footer kind payload first skip) :
    k.framingError = k.abandonWith skip .framing .discard := by
  unfold Link.framingError
  rcases h with h | h
  · rw [h]
  · rw [h]

theorem framingError_early {got : List Byte} (h : k.receiver = .idle ∨ k.receiver = .header got) : k.framingError =
    { k with receiver := .discard, summary := k.summary ||| 0x001, discarded := satInc 65535 k.discarded } := by
  unfold Link.framingError
  rcases h with h | h
  · rw [h]
    rfl
  · rw [h]
    rfl

theorem framingError_fixed (h : k.receiver = .discard ∨ ∃ taken, k.receiver = .awaitMark taken) :
    k.framingError = k := by
  unfold Link.framingError
  rcases h with h | ⟨taken, h⟩
  · rw [h]
  · rw [h]

theorem endDiscard_discard (h : k.receiver = .discard) : k.endDiscard = { k with receiver := .idle } := by
  unfold Link.endDiscard; rw [h]

theorem markReturned_awaitMark {taken : Bool} (h : k.receiver = .awaitMark taken) :
    k.markReturned = { k with receiver := .idle } := by
  unfold Link.markReturned; rw [h]

end

section
variable {s : State} {l : LinkId}

/-- An event of a link that modifies that link's registers. -/
theorem exec_modLink {i : Instr} {f g : Link → Link}
    (hi : effect i s = whenOperating l (fun s => s.modLink l f) s) (ho : operating s l = true)
    (h : f s.links[l] = g s.links[l]) : exec i s = .next { s with links := upd s.links l g } :=
  (exec_link hi ho).trans (congrArg Host.Outcome.next (modLink_congr h))

theorem framingEvent_client (hc : s.links[l].owner = .client) : framingEvent l s = s.modLink l Link.framingError := by
  unfold framingEvent; rw [hc]

theorem framingEvent_am48 (ha : s.links[l].owner = .am48) : framingEvent l s = recordContention l s := by
  unfold framingEvent; rw [ha]

theorem contentionEvent_am48 (ha : s.links[l].owner = .am48) : contentionEvent l s = recordContention l s := by
  unfold contentionEvent; rw [ha]

theorem exec_framing_client {g : Link → Link} (ho : operating s l = true) (hc : s.links[l].owner = .client)
    (h : s.links[l].framingError = g s.links[l]) :
    exec (.framing l) s = .next { s with links := upd s.links l g } :=
  (exec_link (i := .framing l) rfl ho).trans (congrArg Host.Outcome.next
    ((framingEvent_client hc).trans (modLink_congr h)))

end

/-- Settles O48: one lemma for each event and state of the receiver. -/
theorem lineEventsMoveTheReceiver : Obligations.LineEventsMoveTheReceiver := by
  unfold Obligations.LineEventsMoveTheReceiver
  intro l s ho
  refine ⟨fun got hr => exec_modLink (i := .frameTimeout l) rfl ho (timeout_header hr),
    fun kind n got payload first skip hr =>
      ⟨exec_modLink (i := .frameTimeout l) rfl ho ((timeout_long hr).trans (abandonWith_eq _ _ _)),
        fun hc => exec_framing_client ho hc ((framingError_long hr).trans (abandonWith_eq _ _ _))⟩,
    fun got hc hr => exec_framing_client ho hc (framingError_early hr), fun hc hr => ?_,
    fun hr => exec_modLink (i := .discardEnd l) rfl ho (endDiscard_discard hr), fun ha => ⟨?_, ?_⟩,
    fun taken hr => exec_modLink (i := .returnToMark l) rfl ho (markReturned_awaitMark hr)⟩
  · exact (exec_link (i := .framing l) rfl ho).trans (congrArg Host.Outcome.next
      ((framingEvent_client hc).trans (modLink_fixed (framingError_fixed hr))))
  · exact (exec_link (i := .contention l) rfl ho).trans (congrArg Host.Outcome.next (contentionEvent_am48 ha))
  · exact (exec_link (i := .framing l) rfl ho).trans ((congrArg Host.Outcome.next
      ((framingEvent_am48 ha).trans (contentionEvent_am48 ha).symm)).trans
      (exec_link (i := .contention l) rfl ho).symm)

end Sys2Proof.Machine

/-! PROOFS. O50 and O51: the turn of the AM48, and LINK STATUS (R61, R146 to R150, R155). -/

namespace Sys2Proof.Machine

/-! ## The turn -/

section
variable {s : State} {l : LinkId}

/-- R146, R148: what opens a composition: the end of GUARD, or the delivery of a reply that is followed by another. -/
theorem compositionState_cases {s1 : State} (h : compositionState l s = some s1) :
    s.links[l].tx = .guard ∧ s1 = s ∨
      ∃ f, s.links[l].tx = .sending f ∧ s1 = deliverFrame l f.kind s ∧ f.kind ≠ .turn ∧ f.kind ≠ .errorReport := by
  unfold compositionState at h
  split at h
  · exact nomatch h
  · next htx => exact .inl ⟨htx, (Option.some.inj h).symm⟩
  · next f htx =>
    refine .inr ⟨f, htx, ?_⟩
    split at h
    · exact nomatch h
    · exact nomatch h
    all_goals
      next hkind =>
        rw [hkind]
        exact ⟨(Option.some.inj h).symm, ReplyKind.noConfusion, ReplyKind.noConfusion⟩

/-- R148: what follows a reply other than an ERROR REPORT and a TURN. -/
theorem afterDelivery_reply {kind : ReplyKind} (hturn : kind ≠ .turn) (herror : kind ≠ .errorReport) :
    afterDelivery l kind s = composeNext l s := by
  cases kind with
  | turn => exact absurd rfl hturn
  | errorReport => exact absurd rfl herror
  | motionReport => rfl
  | captureReport => rfl
  | linkStatusData => rfl
  | settingData => rfl
  | result => rfl

/-- R146 to R148: the event of a composition composes the next frame. -/
theorem exec_composition {s1 : State} (ho : operating s l = true) (h : compositionState l s = some s1) :
    exec (if s.links[l].tx = .guard then .guardEnd l else .replyDelivery l) s = .next (composeNext l s1) := by
  rcases compositionState_cases h with ⟨hguard, rfl⟩ | ⟨f, hsending, rfl, hturn, herror⟩
  · rw [if_pos hguard, exec_link (i := .guardEnd l) rfl ho, guardEndEvent, hguard]
  · have hnot : s.links[l].tx ≠ .guard := by
      rw [hsending]
      exact Transmitter.noConfusion
    rw [if_neg hnot, exec_replyDelivery ⟨ho, f, hsending, rfl⟩, afterDelivery_reply hturn herror]

theorem composeNext_cons {r : Request} {rest : List Request} (h : s.links[l].queue = r :: rest) :
    composeNext l s = execute l r rest s := by
  unfold composeNext; rw [h]

theorem composeNext_nil (h : s.links[l].queue = []) : composeNext l s = composeClosing l s := by
  unfold composeNext; rw [h]

/-- R150: a turn without conditions ends with the AM48's TURN. -/
theorem composeClosing_turn (h : s.links[l].summary = 0) :
    composeClosing l s =
      { s with links := upd s.links l fun k => { k with tx := .sending (shortReply .turn 0 0) } } :=
  if_pos h

/-- R149, 11.5: the bytes of an ERROR REPORT are those of its summary. -/
theorem errorReport_eq (summary : BitVec 11) : errorReport summary =
    shortReply .errorReport (BitVec.setWidth 8 (summary >>> 8)) (BitVec.setWidth 8 summary) := by
  have hhigh : (summary.setWidth 16).extractLsb' 8 8 = BitVec.setWidth 8 (summary >>> 8) := by
    apply BitVec.eq_of_toNat_eq
    have hlt := summary.isLt
    rw [BitVec.extractLsb'_toNat, BitVec.toNat_setWidth, BitVec.toNat_setWidth, BitVec.toNat_ushiftRight,
      Nat.shiftRight_eq_div_pow, Nat.shiftRight_eq_div_pow]
    omega
  have hlow : (summary.setWidth 16).extractLsb' 0 8 = BitVec.setWidth 8 summary := by
    apply BitVec.eq_of_toNat_eq
    have hlt := summary.isLt
    rw [BitVec.extractLsb'_toNat, BitVec.toNat_setWidth, BitVec.toNat_setWidth, Nat.shiftRight_zero]
    omega
  unfold errorReport
  dsimp only
  rw [hhigh, hlow]

/-- R149: a turn with conditions goes on with an ERROR REPORT, which empties the summary. -/
theorem composeClosing_errorReport (h : s.links[l].summary ≠ 0) :
    composeClosing l s =
      { s with
        links := upd s.links l fun k =>
          { k with
            summary := 0
            tx := .sending (shortReply .errorReport (BitVec.setWidth 8 (s.links[l].summary >>> 8))
              (BitVec.setWidth 8 s.links[l].summary)) } } := by
  unfold composeClosing
  rw [if_neg h, errorReport_eq]
  exact modLink_modLink _ _

theorem compositionState_guard (h : s.links[l].tx = .guard) : compositionState l s = some s := by
  unfold compositionState; rw [h]

/-- R148: the delivery of a RESULT and of SETTING DATA reduces nothing. -/
theorem compositionState_plain (h : isSending l .result s ∨ isSending l .settingData s) :
    compositionState l s = some s := by
  unfold compositionState
  rcases h with ⟨-, f, htx, hkind⟩ | ⟨-, f, htx, hkind⟩
  · rw [htx]
    dsimp only
    rw [hkind]
    rfl
  · rw [htx]
    dsimp only
    rw [hkind]
    rfl

end

/-- Settles O50: `composeNext` at each event that composes. -/
theorem turnsRunTheirCourse : Obligations.TurnsRunTheirCourse := by
  unfold Obligations.TurnsRunTheirCourse
  refine ⟨fun l r rest s s1 h => ⟨?_, exec_commandOf h⟩, fun l s s1 ho h hq => ⟨fun hsum => ?_, fun hsum => ?_⟩,
    fun l s => ⟨compositionState_guard, compositionState_plain, exec_replyDelivery, exec_replyDelivery⟩⟩
  · obtain ⟨ho, hcomp, hq⟩ := h
    rw [exec_composition ho hcomp, composeNext_cons hq]
    rfl
  · rw [exec_composition ho h, composeNext_nil hq, composeClosing_turn hsum]
  · rw [exec_composition ho h, composeNext_nil hq, composeClosing_errorReport hsum]

/-! ## LINK STATUS -/

/-- R155, 11.5: the payload of a LINK STATUS DATA, byte by byte. -/
theorem statusPayload_eq (holder : Option LinkId) (r : StatusReported) : statusPayload holder r =
    be16 (BitVec.ofNat 16 r.accepted) ++ be16 (BitVec.ofNat 16 r.corrected) ++ be16 (BitVec.ofNat 16 r.discarded) ++
      [BitVec.ofNat 8 r.breaks, byteOf (holderCode holder), if r.notice then 1 else 0] := by
  have hnotice : byteOf (bitOf r.notice) = if r.notice then 1 else 0 := by cases r.notice <;> rfl
  unfold statusPayload
  rw [hnotice]
  rfl

/-- R155: a LINK STATUS reports the counters and the notice as they stand. -/
theorem runLinkStatus_popped (l : LinkId) (rest : List Request) (s : State) :
    runLinkStatus l (popped l rest s) = s.modLink l fun k =>
      { k with
        queue := rest
        status := some
          { accepted := k.accepted, corrected := k.corrected, discarded := k.discarded, breaks := k.breaks,
            notice := s.views[l].leaseLost }
        tx := .sending (longReply .linkStatusData (statusPayload s.lease.holder
          { accepted := k.accepted, corrected := k.corrected, discarded := k.discarded, breaks := k.breaks,
            notice := s.views[l].leaseLost })) } := by
  have hnow : statusNow (popped l rest s) l =
      { accepted := s.links[l].accepted, corrected := s.links[l].corrected, discarded := s.links[l].discarded,
        breaks := s.links[l].breaks, notice := s.views[l].leaseLost } := by
    unfold statusNow popped
    rw [modLink_get]
    rfl
  unfold runLinkStatus send
  rw [hnow]
  refine (modLink_modLink _ _).trans ((modLink_modLink _ _).trans (modLink_congr ?_))
  rfl

theorem deliverStatus_eq {l : LinkId} {r : StatusReported} {s : State} (h : s.links[l].status = some r) :
    deliverStatus l s = attendAll ((s.modLink l (Link.takeStatus r)).modView l (View.noticeTold r.notice)) := by
  unfold deliverStatus; rw [h]

/-- Settles O51: `runLinkStatus` at the composition, and `deliverStatus` at the delivery. -/
theorem linkStatusReportsAndConsumes : Obligations.LinkStatusReportsAndConsumes := by
  unfold Obligations.LinkStatusReportsAndConsumes
  refine ⟨fun l rest s s1 h => ?_, fun l s r h hr => ⟨deliverStatus l s, exec_replyDelivery h, ?_⟩⟩
  · refine (exec_commandOf h).trans (congrArg (fun u => Host.Outcome.next (renewLease l u)) ?_)
    refine (runLinkStatus_popped l rest s1).trans (modLink_congr ?_)
    rw [statusPayload_eq]
    cases s1.lease.holder with
    | none => rfl
    | some holder => rfl
  · rw [deliverStatus_eq hr]
    exact ⟨rfl, rfl, rfl⟩

end Sys2Proof.Machine

/-! PROOFS. O49: a break on a client link (R85, R119, R125, R148, R152, R155). -/

namespace Sys2Proof.Machine

/-! ## The lease at a break -/

/-- R125, R152: the end of a break, which frees the lease of its link. -/
def leaseBroken (l : LinkId) (u : State) : State := attendAll (if u.lease.holder = some l then loseLease u else u)

theorem breakTaken_eq (l : LinkId) (s : State) :
    breakTaken l s = leaseBroken l ((abortTransmission l s).modLink l Link.broken) := rfl

theorem noticeBeingTold_none {l : LinkId} {s : State} (h : s.links[l].status = none) : noticeBeingTold s l = false := by
  unfold noticeBeingTold; rw [h]

/-- R61, R125: what the end of a break leaves. -/
theorem leaseBroken_spec (l : LinkId) (u : State) :
    leaseBroken l u =
      { u with
        views := (leaseBroken l u).views, lease := (leaseBroken l u).lease, attention := (leaseBroken l u).attention } ∧
    (∀ k : LinkId, k ≠ l → (leaseBroken l u).views[k] = u.views[k]) ∧
    (leaseBroken l u).views[l] =
      { u.views[l] with
        leaseLost := (leaseBroken l u).views[l].leaseLost, lostAgain := (leaseBroken l u).views[l].lostAgain } ∧
    (u.links[l].status = none → (leaseBroken l u).views[l].lostAgain = u.views[l].lostAgain) ∧
    (u.lease.holder = some l → (leaseBroken l u).lease = { holder := none, countdown := .stopped } ∧
      (leaseBroken l u).views[l].leaseLost = true) ∧
    (u.lease.holder ≠ some l → (leaseBroken l u).lease = u.lease ∧ (leaseBroken l u).views[l] = u.views[l]) := by
  by_cases hh : u.lease.holder = some l
  · have hview : (upd u.views l fun v =>
        { v with leaseLost := true, lostAgain := v.lostAgain || noticeBeingTold u l })[l] =
        { u.views[l] with leaseLost := true, lostAgain := u.views[l].lostAgain || noticeBeingTold u l } := get_upd_eq
    unfold leaseBroken
    rw [if_pos hh, loseLease_of_held hh]
    refine ⟨rfl, fun k hk => get_upd_ne hk, ?_, fun hs => ?_, fun _ => ⟨rfl, congrArg View.leaseLost hview⟩,
      fun hn => absurd hh hn⟩
    · dsimp only [attendAll]
      rw [hview]
    · refine (congrArg View.lostAgain hview).trans ?_
      rw [noticeBeingTold_none hs]
      exact Bool.or_false _
  · unfold leaseBroken
    rw [if_neg hh]
    exact ⟨rfl, fun k hk => rfl, rfl, fun hs => rfl, fun hn => absurd hn hh, fun _ => ⟨rfl, rfl⟩⟩

/-! ## The event -/

/-- R138, R148: a break finds the state that its order with the delivery leaves. -/
theorem breakEvent_congr {l : LinkId} {order order' : BreakOrder} {s : State}
    (h : beforeBreak l order s = beforeBreak l order' s) : breakEvent l order s = breakEvent l order' s := by
  unfold breakEvent
  rw [h]

theorem exec_lineBreak {l : LinkId} {order : BreakOrder} {s : State} (ho : operating s l = true)
    (hr : s.links[l].receiver ≠ .awaitMark true) :
    exec (.lineBreak ⟨l, order⟩) s = .next (breakTaken l (beforeBreak l order s)) :=
  (exec_link (i := .lineBreak ⟨l, order⟩) rfl ho).trans (congrArg Host.Outcome.next (breakEvent_taken hr))

/-- R125, R152, R155: a break that is not taken just after a delivery aborts what was being sent. -/
theorem breakAlone_spec (l : LinkId) (s : State) : ∃ t, breakTaken l s = t ∧
    t.links = upd s.links l (fun k =>
      { k with
        owner := .client
        receiver := .awaitMark true
        queue := []
        summary := 0x400
        breaks := satInc 255 k.breaks
        tx := .idle
        status := t.links[l].status }) ∧
    (∀ k : LinkId, k ≠ l → t.views[k] = s.views[k] ∧ t.rings[k] = s.rings[k]) ∧
    t.views[l].accounts = s.views[l].accounts ∧ t.views[l].settings = s.views[l].settings ∧
    t.rings[l] = { s.rings[l] with report := t.rings[l].report } ∧
    (isSending l .motionReport s → t.views[l].report = none) ∧
    (isSending l .captureReport s → t.rings[l].report = none) ∧
    (isSending l .linkStatusData s → t.links[l].status = none ∧ t.views[l].lostAgain = false) ∧
    (s.lease.holder = some l → t.lease = { holder := none, countdown := .stopped } ∧ t.views[l].leaseLost = true) ∧
    (s.lease.holder ≠ some l → t.lease = s.lease ∧ t.views[l].leaseLost = s.views[l].leaseLost) ∧
    t = { s with links := t.links, views := t.views, rings := t.rings, lease := t.lease, attention := t.attention } := by
  obtain ⟨rp, again, rr, st, habort, hmotion, hcapture, hstatus⟩ := abortTransmission_eq l s
  obtain ⟨u, hu⟩ : ∃ u, u = (abortTransmission l s).modLink l Link.broken := ⟨_, rfl⟩
  have hbreak : breakTaken l s = leaseBroken l u := by rw [breakTaken_eq, hu]
  rw [habort] at hu
  have hlinks : u.links = upd s.links l fun k => Link.broken { k with status := st } := by
    rw [hu]
    exact upd_upd s.links l (fun k => { k with status := st }) Link.broken
  have hview : u.views[l] = { s.views[l] with report := rp, lostAgain := again } := by
    rw [hu]
    exact get_upd_eq
  have hring : u.rings[l] = { s.rings[l] with report := rr } := by
    rw [hu]
    exact get_upd_eq
  have hother : ∀ k : LinkId, k ≠ l → u.views[k] = s.views[k] ∧ u.rings[k] = s.rings[k] := fun k hk => by
    rw [hu]
    exact ⟨get_upd_ne hk, get_upd_ne hk⟩
  have hlease : u.lease = s.lease := by rw [hu]; rfl
  have hframe : u = { s with links := u.links, views := u.views, rings := u.rings } := by rw [hu]; rfl
  have hst : u.links[l].status = st := by
    rw [hlinks, get_upd_eq]
    rfl
  obtain ⟨hleft, hothers, hown, hagain, hheld, hfree⟩ := leaseBroken_spec l u
  generalize leaseBroken l u = t at *
  have htlinks : t.links = u.links := by rw [hleft]
  have htrings : t.rings = u.rings := by rw [hleft]
  rw [hlease] at hheld hfree
  rw [hview] at hown hagain hfree
  refine ⟨t, hbreak, ?_, fun k hk => ⟨(hothers k hk).trans (hother k hk).1, ?_⟩, ?_, ?_, ?_, fun h => ?_, fun h => ?_,
    fun h => ?_, hheld, fun h => ⟨(hfree h).1, (congrArg View.leaseLost (hfree h).2).trans rfl⟩, ?_⟩
  · rw [htlinks, hst, hlinks]
    rfl
  · rw [htrings]
    exact (hother k hk).2
  · exact (congrArg View.accounts hown).trans rfl
  · exact (congrArg View.settings hown).trans rfl
  · rw [htrings, hring]
  · exact (congrArg View.report hown).trans (hmotion h)
  · rw [htrings, hring]
    exact hcapture h
  · obtain ⟨hnone, hfalse⟩ := hstatus h
    exact ⟨(congrArg (fun links : Vector Link 4 => links[l].status) htlinks).trans (hst.trans hnone),
      (hagain (hst.trans hnone)).trans hfalse⟩
  · rw [htlinks, htrings]
    refine hleft.trans ?_
    rw [hframe]

/-- Settles O49: the abort or the delivery, then `Link.broken`, then the lease. -/
theorem breakEndsTheTurn : Obligations.BreakEndsTheTurn := by
  unfold Obligations.BreakEndsTheTurn
  refine ⟨fun l s ho hr => ?_, fun l s f ho hr htx => ?_, fun l s hquiet => ?_⟩
  · obtain ⟨t, ht, hspec⟩ := breakAlone_spec l s
    exact ⟨t, (exec_lineBreak (order := .alone) ho hr).trans (congrArg Host.Outcome.next ht), hspec⟩
  · have hexec := exec_lineBreak (order := .afterDelivery) ho hr
    change exec _ s = .next (breakTaken l (deliveredOnly l s)) at hexec
    rw [breakTaken_eq, abortTransmission_quiet (deliveredOnly_tx l s), deliveredOnly_sending htx,
      modLink_modLink] at hexec
    obtain ⟨-, -, -, -, -, -, -, -, hlease, -⟩ := deliverFrame_frame l f.kind s
    generalize deliverFrame l f.kind s = d at *
    obtain ⟨u, hu⟩ : ∃ u, u = d.modLink l fun k => Link.broken { k with tx := .idle } := ⟨_, rfl⟩
    rw [← hu] at hexec
    have hstatus : u.links[l].status = d.links[l].status := by
      rw [hu, modLink_get]
      rfl
    have hviews : u.views = d.views := by rw [hu]; rfl
    have hulease : u.lease = s.lease := by rw [hu]; exact hlease
    have hlinks : u.links = upd d.links l fun k => Link.broken { k with tx := .idle } := by rw [hu]; rfl
    have hframe : u = { d with links := u.links } := by rw [hu]; rfl
    obtain ⟨hleft, hothers, hown, hagain, hheld, hfree⟩ := leaseBroken_spec l u
    generalize leaseBroken l u = t at *
    have htlinks : t.links = u.links := by rw [hleft]
    rw [hulease] at hheld hfree
    rw [hviews] at hothers hown hagain hfree
    refine ⟨d, t, rfl, hexec, htlinks.trans hlinks, hothers, hown, fun h => hagain (hstatus.trans h), hheld, hfree, ?_⟩
    rw [htlinks]
    refine hleft.trans ?_
    rw [hframe]
  · have hbefore : beforeBreak l .afterDelivery s = beforeBreak l .alone s := deliveredOnly_quiet hquiet
    rw [exec_eq_effect, exec_eq_effect]
    exact congrArg (fun u => Host.Outcome.next (if operating s l = true then u else s)) (breakEvent_congr hbefore)

end Sys2Proof.Machine
